-- ==== Sys2Proof/Word.lean ====
section
/-! DEFINITION. The widths of the machine: a byte (rule R6) and a host address (rule R40). -/

namespace Sys2Proof

/-- A byte: bits 7 (most significant) to 0 (rule R6). -/
abbrev Byte := BitVec 8

/-- A byte address of the host window, 10 bits, 0x000 to 0x3FF (rule R40). -/
abbrev Addr := BitVec 10

end Sys2Proof
end

