-- ==== Sys2Proof/Machine/Bits.lean ====
section
/-! DEFINITION. Byte rotations (rule R7). -/

namespace Sys2Proof.Machine

/-- `rotl8(b, n)` for `0 ≤ n ≤ 7` (rule R7): bit 7 wraps to bit 0. -/
def rotl8 (b : Byte) (n : Nat) : Byte :=
  if n = 0 then b else (b <<< n) ||| (b >>> (8 - n))

/-- `rotr8(b, n) = rotl8(b, (8 - n) mod 8)` (rule R7). -/
def rotr8 (b : Byte) (n : Nat) : Byte := rotl8 b ((8 - n) % 8)

end Sys2Proof.Machine
end

