-- ==== Sys2Proof/Syntax.lean ====
section
/-! DEFINITION. The command set NWC-1 (rules R60 to R62) as data: the variants, the 33 commands (one constructor per
legal command byte), the two fields of a command word, and the host transactions. -/

namespace Sys2Proof

/-- The three variants of rule R61, named by their block size in bits. -/
inductive Variant where
  | v256
  | v384
  | v512
  deriving DecidableEq, Repr

/-- Rows `R` of the matrix view (rule R61). -/
def Variant.rows : Variant → Nat
  | .v256 => 4
  | .v384 => 6
  | .v512 => 8

/-- Rounds `N` (rule R61). -/
def Variant.rounds : Variant → Nat
  | .v256 => 16
  | .v384 => 18
  | .v512 => 20

/-- Block bytes `Bv = 8·R` (rule R61). -/
abbrev Variant.bytes (v : Variant) : Nat := 8 * v.rows

/-- The 33 commands, one for each legal command byte and row of the opcode table (rules R62, R63). No command carries
an operand (rule R65). -/
inductive Instr where
  | gfAdd
  | gfSub
  | gfMul
  | gfInv
  | sbMix
  | sbBase
  | sbRnd
  | sbInvb
  | sbDig
  | ksRc
  | ksRk256
  | dfFwd256
  | dfInv256
  | cfF
  | cfFi
  | ciNew256
  | ciEnc256
  | ciDec256
  | ciFree256
  | ksRk384
  | dfFwd384
  | dfInv384
  | ciNew384
  | ciEnc384
  | ciDec384
  | ciFree384
  | ksRk512
  | dfFwd512
  | dfInv512
  | ciNew512
  | ciEnc512
  | ciDec512
  | ciFree512
  deriving DecidableEq, Repr

/-- The 19 operations of rule R62. -/
inductive Operation where
  | gfAdd
  | gfSub
  | gfMul
  | gfInv
  | sbMix
  | sbBase
  | sbRnd
  | sbInvb
  | sbDig
  | ksRc
  | ksRk
  | dfFwd
  | dfInv
  | cfF
  | cfFi
  | ciNew
  | ciEnc
  | ciDec
  | ciFree
  deriving DecidableEq, Repr

/-- A command byte taken apart (format `CMD8`, rule R60): any two field values, legal or not. -/
structure CmdWord where
  /-- bits 7:6, the variant selector -/
  v : BitVec 2
  /-- bits 5:0, the operation code -/
  op : BitVec 6
  deriving DecidableEq, Repr

/-- What a host can do to the engine: read a byte, write a byte, or reset (rules R42, R43, R190). -/
inductive Transaction where
  /-- `MemRead(addr, 1)` -/
  | read (addr : Addr)
  /-- `MemWrite(addr, 1, v)` -/
  | write (addr : Addr) (v : Byte)
  /-- the `RESET` event -/
  | reset
  deriving DecidableEq, Repr

end Sys2Proof
end

