-- ==== Sys2Proof/WellFormed.lean ====
section
/-! DEFINITION. Which command words are well formed (rules R61, R62, R64): three checks over the two fields, written
from the list of assigned operation codes and apart from the decoder. -/

namespace Sys2Proof

/-- The operation codes of rule R62 whose command does not take a variant. -/
def CmdWord.fixedOps : List (BitVec 6) :=
  [0x01, 0x02, 0x03, 0x04, 0x08, 0x09, 0x0A, 0x0B, 0x0C, 0x10, 0x20, 0x21]

/-- The operation codes of rule R62 whose command takes a variant. -/
def CmdWord.variantOps : List (BitVec 6) :=
  [0x11, 0x18, 0x19, 0x28, 0x29, 0x2A, 0x2B]

/-- `v = 3` is reserved (rule R61). -/
def CmdWord.variantDefined (w : CmdWord) : Bool := w.v != 3

/-- The operation code is one of the 19 of rule R62. -/
def CmdWord.opAssigned (w : CmdWord) : Bool :=
  CmdWord.fixedOps.contains w.op || CmdWord.variantOps.contains w.op

/-- A command that does not depend on the variant must have `v = 0` (rule R61). -/
def CmdWord.variantAllowed (w : CmdWord) : Bool :=
  w.v == 0 || !CmdWord.fixedOps.contains w.op

/-- A well-formed command word: it passes all three checks (rules R63, R64). -/
def CmdWord.wellFormed (w : CmdWord) : Bool :=
  w.variantDefined && w.opAssigned && w.variantAllowed

end Sys2Proof
end

