-- ==== Sys2Proof/Decode.lean ====
section
/-! DEFINITION. Decoding and encoding of command bytes (rules R60 to R64): the decoder is total on the 256 bytes and
rejects each of the 223 illegal ones by name; the encoder writes the byte `(v << 6) | op` of rule R62. -/

namespace Sys2Proof

/-- Why a command byte is illegal (rule R64): one name per way of being outside rule R62. All three raise the same
fault `IllegalCommand` (rule R171). -/
inductive DecodeError where
  /-- `v = 3` (rule R61) -/
  | reservedVariant
  /-- the operation code is not in rule R62 -/
  | unassignedOp
  /-- a variant-independent operation with `v ≠ 0` -/
  | variantOnFixedOp
  deriving DecidableEq, Repr

/-- The value of the `v` field (rule R61). -/
def Variant.field : Variant → BitVec 2
  | .v256 => 0
  | .v384 => 1
  | .v512 => 2

/-- The variant a `v` field selects, if any (rule R61). -/
def Variant.ofField (v : BitVec 2) : Option Variant :=
  if v = 0 then some .v256 else if v = 1 then some .v384 else if v = 2 then some .v512 else none

/-- The operation codes of rule R62. -/
def Operation.code : Operation → BitVec 6
  | .gfAdd => 0x01
  | .gfSub => 0x02
  | .gfMul => 0x03
  | .gfInv => 0x04
  | .sbMix => 0x08
  | .sbBase => 0x09
  | .sbRnd => 0x0A
  | .sbInvb => 0x0B
  | .sbDig => 0x0C
  | .ksRc => 0x10
  | .ksRk => 0x11
  | .dfFwd => 0x18
  | .dfInv => 0x19
  | .cfF => 0x20
  | .cfFi => 0x21
  | .ciNew => 0x28
  | .ciEnc => 0x29
  | .ciDec => 0x2A
  | .ciFree => 0x2B

/-- The 19 operations in the order of rule R62. -/
def Operation.all : List Operation :=
  [.gfAdd, .gfSub, .gfMul, .gfInv, .sbMix, .sbBase, .sbRnd, .sbInvb, .sbDig, .ksRc, .ksRk, .dfFwd, .dfInv,
   .cfF, .cfFi, .ciNew, .ciEnc, .ciDec, .ciFree]

/-- The operation with a given code, if the code is assigned (rule R62). -/
def Operation.ofCode (op : BitVec 6) : Option Operation :=
  Operation.all.find? fun o => o.code == op

/-- The seven operations that take a variant (rule R62). -/
def Operation.takesVariant : Operation → Bool
  | .ksRk | .dfFwd | .dfInv | .ciNew | .ciEnc | .ciDec | .ciFree => true
  | .gfAdd | .gfSub | .gfMul | .gfInv | .sbMix | .sbBase | .sbRnd | .sbInvb | .sbDig | .ksRc | .cfF | .cfFi => false

/-- The command `KS.RK.v`. -/
def Instr.ksRk : Variant → Instr
  | .v256 => .ksRk256
  | .v384 => .ksRk384
  | .v512 => .ksRk512

/-- The command `DF.FWD.v`. -/
def Instr.dfFwd : Variant → Instr
  | .v256 => .dfFwd256
  | .v384 => .dfFwd384
  | .v512 => .dfFwd512

/-- The command `DF.INV.v`. -/
def Instr.dfInv : Variant → Instr
  | .v256 => .dfInv256
  | .v384 => .dfInv384
  | .v512 => .dfInv512

/-- The command `CI.NEW.v`. -/
def Instr.ciNew : Variant → Instr
  | .v256 => .ciNew256
  | .v384 => .ciNew384
  | .v512 => .ciNew512

/-- The command `CI.ENC.v`. -/
def Instr.ciEnc : Variant → Instr
  | .v256 => .ciEnc256
  | .v384 => .ciEnc384
  | .v512 => .ciEnc512

/-- The command `CI.DEC.v`. -/
def Instr.ciDec : Variant → Instr
  | .v256 => .ciDec256
  | .v384 => .ciDec384
  | .v512 => .ciDec512

/-- The command `CI.FREE.v`. -/
def Instr.ciFree : Variant → Instr
  | .v256 => .ciFree256
  | .v384 => .ciFree384
  | .v512 => .ciFree512

/-- The command an operation and a variant denote; a variant-independent operation ignores the variant (rule R62). -/
def Operation.instr : Operation → Variant → Instr
  | .gfAdd, _ => .gfAdd
  | .gfSub, _ => .gfSub
  | .gfMul, _ => .gfMul
  | .gfInv, _ => .gfInv
  | .sbMix, _ => .sbMix
  | .sbBase, _ => .sbBase
  | .sbRnd, _ => .sbRnd
  | .sbInvb, _ => .sbInvb
  | .sbDig, _ => .sbDig
  | .ksRc, _ => .ksRc
  | .ksRk, v => .ksRk v
  | .dfFwd, v => .dfFwd v
  | .dfInv, v => .dfInv v
  | .cfF, _ => .cfF
  | .cfFi, _ => .cfFi
  | .ciNew, v => .ciNew v
  | .ciEnc, v => .ciEnc v
  | .ciDec, v => .ciDec v
  | .ciFree, v => .ciFree v

/-- The operation of a command (rule R62). -/
def Instr.operation : Instr → Operation
  | .gfAdd => .gfAdd
  | .gfSub => .gfSub
  | .gfMul => .gfMul
  | .gfInv => .gfInv
  | .sbMix => .sbMix
  | .sbBase => .sbBase
  | .sbRnd => .sbRnd
  | .sbInvb => .sbInvb
  | .sbDig => .sbDig
  | .ksRc => .ksRc
  | .ksRk256 | .ksRk384 | .ksRk512 => .ksRk
  | .dfFwd256 | .dfFwd384 | .dfFwd512 => .dfFwd
  | .dfInv256 | .dfInv384 | .dfInv512 => .dfInv
  | .cfF => .cfF
  | .cfFi => .cfFi
  | .ciNew256 | .ciNew384 | .ciNew512 => .ciNew
  | .ciEnc256 | .ciEnc384 | .ciEnc512 => .ciEnc
  | .ciDec256 | .ciDec384 | .ciDec512 => .ciDec
  | .ciFree256 | .ciFree384 | .ciFree512 => .ciFree

/-- The variant a command's `v` field names: 0 for the variant-independent commands (rule R61). -/
def Instr.variant : Instr → Variant
  | .ksRk384 | .dfFwd384 | .dfInv384 | .ciNew384 | .ciEnc384 | .ciDec384 | .ciFree384 => .v384
  | .ksRk512 | .dfFwd512 | .dfInv512 | .ciNew512 | .ciEnc512 | .ciDec512 | .ciFree512 => .v512
  | .gfAdd | .gfSub | .gfMul | .gfInv | .sbMix | .sbBase | .sbRnd | .sbInvb | .sbDig | .ksRc | .ksRk256
  | .dfFwd256 | .dfInv256 | .cfF | .cfFi | .ciNew256 | .ciEnc256 | .ciDec256 | .ciFree256 => .v256

/-- The fields of a command byte (rule R60): `v` is bits 7:6 and `op` is bits 5:0. -/
def CmdWord.ofByte (c : Byte) : CmdWord :=
  { v := c.extractLsb' 6 2, op := c.extractLsb' 0 6 }

/-- The byte of two fields, `(v << 6) | op` (rule R62). -/
def CmdWord.toByte (w : CmdWord) : Byte := w.v ++ w.op

/-- The fields of a command (rules R60 to R62). -/
def Instr.fields (i : Instr) : CmdWord :=
  { v := i.variant.field, op := i.operation.code }

/-- The command byte of a command (rule R62). -/
def encode (i : Instr) : Byte := i.fields.toByte

/-- Decoding of a command byte (rules R61 to R64): a legal byte gives its one command, every other byte the reason it
is illegal. -/
def decode (c : Byte) : Except DecodeError Instr :=
  let w := CmdWord.ofByte c
  match Variant.ofField w.v with
  | none => .error .reservedVariant
  | some v =>
    match Operation.ofCode w.op with
    | none => .error .unassignedOp
    | some o =>
      if o.takesVariant = false ∧ v ≠ .v256 then .error .variantOnFixedOp
      else .ok (o.instr v)

/-- The host's question about one row of the opcode table: the command this decoder reads from a word of `nbits` bits,
bit 0 the least significant bit of the command byte. A command is one byte (rule R60). -/
def decodeTableWord (nbits w : Nat) : Option Instr :=
  (decode (BitVec.ofNat 8 (w % 2 ^ nbits))).toOption

end Sys2Proof
end

