-- ==== Sys2Proof/Machine/State.lean ====
section
/-! DEFINITION. The machine's state (rules R10 to R31), all of it plain data, its value after reset (rule R31), and the
reasons a step could stop (there are none but the host's stub). -/

namespace Sys2Proof.Machine

/-- The buffer cells of the host window as a list of (window address, byte) pairs; `Memory.wf` says its canonical form
(rules R14 to R20, R41; log 8). -/
abbrev Memory := List Host.Cell

/-- A matrix row or an 8-byte subkey segment (rule R14). -/
abbrev Row := Vector Byte 8

/-- A 256-entry byte-to-byte mapping (rule R19). -/
abbrev Box := Vector Byte 256

/-- The block, key or round key of a variant: `Bv` bytes, flat, indexed from 0 (rule R47). -/
abbrev Block (v : Variant) := Vector Byte v.bytes

/-- A cipher instance of a variant (rule R25). `Inst` is short for the instance of rule R26. -/
structure Inst (v : Variant) where
  /-- `rk[r][i]`, the round keys -/
  rk : Vector (Block v) v.rounds
  /-- `sb[r][j][b]`, the S-boxes -/
  sb : Vector (Vector Box v.rows) v.rounds
  /-- `si[r][j][b]`, their inverses -/
  si : Vector (Vector Box v.rows) v.rounds
  deriving DecidableEq, Repr

/-- The contents of a slot after reset and after `CI.FREE.v`: all bytes 0x00 (rules R31, R159). -/
def Inst.zero (v : Variant) : Inst v where
  rk := Vector.replicate _ (Vector.replicate _ 0)
  sb := Vector.replicate _ (Vector.replicate _ (Vector.replicate _ 0))
  si := Vector.replicate _ (Vector.replicate _ (Vector.replicate _ 0))

/-- A context slot `CTX[v]` (rule R25). -/
structure Ctx (v : Variant) where
  /-- `CTX[v].valid` -/
  valid : Bool
  /-- `CTX[v].rk`, `.sb`, `.si` -/
  inst : Inst v
  deriving DecidableEq, Repr

/-- The host's side of the port: the MODEL's own state, not the engine's (logs 4, 5). -/
structure HostPort where
  /-- the transactions the host will issue, the next one first -/
  pending : List Transaction
  /-- the byte the latest `MemRead` returned, if any -/
  readData : Option Byte
  deriving DecidableEq, Repr

/-- The state: the complete architectural state of rule R10, and the host's side of the port. -/
structure State where
  /-- `STATUS.ERR` (rule R22): a fault has been taken and the engine is halted -/
  err : Bool
  /-- `CAUSE` (rule R23) -/
  cause : Byte
  /-- `FCMD` (rule R24) -/
  fcmd : Byte
  /-- `IDX` (rule R13) -/
  idx : Byte
  /-- `A` (rule R11) -/
  a : Byte
  /-- `B` (rule R11) -/
  b : Byte
  /-- `Y` (rule R12) -/
  y : Byte
  /-- the buffers `ROW`, `SK`, `ROWO`, `KEY`, `DIN`, `DOUT`, `BOXA`, `BOXB` at their window addresses (R14 to R20) -/
  mem : Memory
  /-- `CTX[0]` (rule R25) -/
  ctx256 : Ctx .v256
  /-- `CTX[1]` (rule R25) -/
  ctx384 : Ctx .v384
  /-- `CTX[2]` (rule R25) -/
  ctx512 : Ctx .v512
  /-- the host's side of the port (the model's own field, logs 4 and 5) -/
  host : HostPort
  deriving DecidableEq, Repr

/-- Why the machine would stop with a fault: never. The engine's two faults are recorded in `CAUSE`, `FCMD` and
`STATUS.ERR` and the machine goes on, halted (rules R175, R176), so they are next states; nothing else faults (rule
R173). No constructor: safe, since no behaviour is cut off (log 9). -/
inductive Fault where
  deriving DecidableEq, Repr

/-- Why the machine would refuse an instruction. -/
inductive Refusal where
  /-- An arm of `exec` without a meaning. Raised by nothing in this model: all 33 commands have their meaning. Safe: it
  would only cut behaviour off. -/
  | notModelled (mnemonic : String)
  deriving DecidableEq, Repr

/-- A slot after reset (rule R31). -/
def Ctx.reset (v : Variant) : Ctx v := { valid := false, inst := Inst.zero v }

/-- The machine right after reset: every cell of architectural state holds zero (rule R31), and the host has nothing
queued and has read nothing (logs 4, 5). -/
def State.reset : State where
  err := false
  cause := 0
  fcmd := 0
  idx := 0
  a := 0
  b := 0
  y := 0
  mem := []
  ctx256 := Ctx.reset .v256
  ctx384 := Ctx.reset .v384
  ctx512 := Ctx.reset .v512
  host := { pending := [], readData := none }

end Sys2Proof.Machine
end

