-- ==== Sys2Proof/Machine/Ops.lean ====
section
/-! DEFINITION. The named operations over the state: memory cells, the context slots, taking a fault (rule R175),
leaving the halted state by reset (rules R176, R190), and the common execution rule of a command (rule R69). -/

namespace Sys2Proof.Machine

/-- What an unlisted window cell reads as: 0x00, the value rule R31 gives every buffer at reset (log 8). -/
def Memory.unlisted : Byte := 0x00

/-- The one canonical form of a memory: addresses strictly rising, and no entry equal to what an unlisted address reads
as. -/
abbrev Memory.wf (m : Memory) : Prop :=
  m.Pairwise (fun c d => c.1 < d.1) ∧ ∀ c ∈ m, c.2 ≠ Memory.unlisted

/-- Reading one byte. -/
def Memory.read : Memory → Nat → Byte
  | [], _ => Memory.unlisted
  | (x, d) :: rest, addr => if addr = x then d else Memory.read rest addr

/-- Putting an entry in its place by address. -/
def Memory.insert (c : Host.Cell) : Memory → Memory
  | [] => [c]
  | d :: rest => if c.1 < d.1 then c :: d :: rest else d :: Memory.insert c rest

/-- Writing one byte: the address's old entry goes and, unless the byte is what an unlisted address reads as, the new
one takes its place. -/
def Memory.write (addr : Nat) (v : Byte) (m : Memory) : Memory :=
  if v = Memory.unlisted then m.filter (fun c => c.1 != addr)
  else Memory.insert (addr, v) (m.filter fun c => c.1 != addr)

/-- Writing consecutive bytes from an address upward. -/
def Memory.writeBytes (addr : Nat) : List Byte → Memory → Memory
  | [], m => m
  | v :: vs, m => Memory.writeBytes (addr + 1) vs (Memory.write addr v m)

/-- Reading `n` consecutive bytes from an address upward. -/
def Memory.readBytes (m : Memory) (addr n : Nat) : Vector Byte n :=
  Vector.ofFn fun i => Memory.read m (addr + i.val)

/-- The context slot of a variant (rules R25, R61). -/
def State.ctx (s : State) : (v : Variant) → Ctx v
  | .v256 => s.ctx256
  | .v384 => s.ctx384
  | .v512 => s.ctx512

/-- Replacing the context slot of a variant as a whole. -/
def State.setCtx (s : State) : (v : Variant) → Ctx v → State
  | .v256, c => { s with ctx256 := c }
  | .v384, c => { s with ctx384 := c }
  | .v512, c => { s with ctx512 := c }

/-- The two fault causes (rule R170). -/
inductive Cause where
  | illegalCommand
  | contextInvalid
  deriving DecidableEq, Repr

/-- The cause codes (rule R170); `CAUSE` = 0x00 means no fault since reset. -/
def Cause.code : Cause → Byte
  | .illegalCommand => 0x01
  | .contextInvalid => 0x02

/-- Taking a fault with cause `k` on command byte `c` (rule R175): `CAUSE`, `FCMD` and `STATUS.ERR`, nothing else. -/
def takeFault (k : Cause) (c : Byte) (s : State) : State :=
  { s with cause := k.code, fcmd := c, err := true }

/-- The reset event, the only way out of the halted state (rules R176, R190): every cell of architectural state takes
its value of rule R31. What the host has queued and what it has read are the host's and stay (log 11). -/
def resetEngine (s : State) : State :=
  { State.reset with host := s.host }

/-- The common execution rule of a legal command that cannot fault (rule R69): ignored while halted (rule R176), else
its effect. -/
def command (effect : State → State) (s : State) : Host.Outcome State Fault Refusal :=
  if s.err then .next s else .next (effect s)

/-- The common execution rule of a command that needs a valid slot (rules R69, R172, R174): ignored while halted, the
fault `ContextInvalid` on an invalid slot, else its effect. `c` is the command's own byte, for `FCMD`. -/
def commandOnSlot (v : Variant) (c : Byte) (effect : State → State) (s : State) :
    Host.Outcome State Fault Refusal :=
  if s.err then .next s
  else if (s.ctx v).valid then .next (effect s)
  else .next (takeFault .contextInvalid c s)

/-- The execution of an illegal command byte (rules R69, R171): ignored while halted, else the fault
`IllegalCommand`. -/
def illegalCommand (c : Byte) (s : State) : Host.Outcome State Fault Refusal :=
  if s.err then .next s else .next (takeFault .illegalCommand c s)

end Sys2Proof.Machine
end

