-- ==== Sys2Proof/Machine/Window.lean ====
section
/-! DEFINITION. The address map of the host window (rule R41): where each register and buffer stands and who may access
it. -/

namespace Sys2Proof.Machine

/-- The byte buffers of the window (rules R14 to R20). -/
inductive Buf where
  | row
  | sk
  | rowo
  | key
  | din
  | dout
  | boxa
  | boxb
  deriving DecidableEq, Repr

/-- The window address of a buffer's element 0 (rule R41). -/
def Buf.base : Buf → Nat
  | .row => 0x008
  | .sk => 0x010
  | .rowo => 0x018
  | .key => 0x040
  | .din => 0x080
  | .dout => 0x0C0
  | .boxa => 0x100
  | .boxb => 0x200

/-- The number of bytes of a buffer (rule R41). -/
def Buf.size : Buf → Nat
  | .row => 8
  | .sk => 8
  | .rowo => 8
  | .key => 64
  | .din => 64
  | .dout => 64
  | .boxa => 256
  | .boxb => 256

/-- What stands at a window address (rule R41). -/
inductive Target where
  | cmd
  | status
  | cause
  | fcmd
  | idx
  | a
  | b
  | y
  | buf (which : Buf)
  | reserved
  deriving DecidableEq, Repr

/-- What the host may do at a window address (rule R41). -/
inductive Access where
  /-- RW: host may read and write -/
  | readWrite
  /-- RO: host reads, host writes are ignored -/
  | readOnly
  /-- WO: host writes, reads return 0x00 -/
  | writeOnly
  /-- reserved: reads 0x00, writes ignored -/
  | none
  deriving DecidableEq, Repr

/-- One row of the address map. -/
structure Region where
  base : Nat
  size : Nat
  target : Target
  access : Access
  deriving DecidableEq, Repr

/-- The row of a buffer. -/
def Region.ofBuf (which : Buf) (access : Access) : Region :=
  { base := which.base, size := which.size, target := .buf which, access := access }

/-- The address map, row by row (rule R41). -/
def addressMap : List Region :=
  [{ base := 0x000, size := 1, target := .cmd, access := .writeOnly },
   { base := 0x001, size := 1, target := .status, access := .readOnly },
   { base := 0x002, size := 1, target := .cause, access := .readOnly },
   { base := 0x003, size := 1, target := .fcmd, access := .readOnly },
   { base := 0x004, size := 1, target := .idx, access := .readWrite },
   { base := 0x005, size := 1, target := .a, access := .readWrite },
   { base := 0x006, size := 1, target := .b, access := .readWrite },
   { base := 0x007, size := 1, target := .y, access := .readOnly },
   Region.ofBuf .row .readWrite,
   Region.ofBuf .sk .readWrite,
   Region.ofBuf .rowo .readOnly,
   { base := 0x020, size := 0x20, target := .reserved, access := .none },
   Region.ofBuf .key .readWrite,
   Region.ofBuf .din .readWrite,
   Region.ofBuf .dout .readOnly,
   Region.ofBuf .boxa .readWrite,
   Region.ofBuf .boxb .readOnly,
   { base := 0x300, size := 0x100, target := .reserved, access := .none }]

/-- Whether an address lies in a row of the map. -/
def Region.contains (r : Region) (addr : Nat) : Bool :=
  decide (r.base ≤ addr) && decide (addr < r.base + r.size)

/-- What stands at an address and who may access it. The map covers the whole window, so the last case is met by no
10-bit address. -/
def lookup (addr : Nat) : Target × Access :=
  match addressMap.find? fun r => r.contains addr with
  | some r => (r.target, r.access)
  | none => (.reserved, .none)

end Sys2Proof.Machine
end

