-- ==== Sys2Proof/Machine/Operands.lean ====
section
/-! DEFINITION. The implicit operands of the commands (rules R49, R65 and the "Reads" and "Writes" columns of rule
R62): fixed registers, and fixed buffers of which a variant command uses the first `Bv` bytes (rules R16 to R18). -/

namespace Sys2Proof.Machine

/-- The first `n` bytes of a buffer, as a command reads them (rule R49). -/
def State.source (s : State) (which : Buf) (n : Nat) : Vector Byte n :=
  Memory.readBytes s.mem which.base n

/-- Writing the first bytes of a buffer, all at once as the command completes; the rest of the buffer is left
(rules R9, R18). -/
def State.setBuf (s : State) (which : Buf) (n : Nat) (bytes : Vector Byte n) : State :=
  { s with mem := Memory.writeBytes which.base bytes.toList s.mem }

/-- `Y <- v` (rule R12). -/
def State.setY (s : State) (v : Byte) : State := { s with y := v }

/-- `ROW[0..8]` (rule R14). -/
def State.rowIn (s : State) : Row := s.source .row 8

/-- `SK[0..8]` (rule R14). -/
def State.subkeyIn (s : State) : Row := s.source .sk 8

/-- `BOXA[0..256]` (rule R19). -/
def State.boxIn (s : State) : Box := s.source .boxa 256

/-- `KEY[0..Bv]` (rule R16). -/
def State.keyIn (s : State) (v : Variant) : Block v := s.source .key v.bytes

/-- `DIN[0..Bv]` (rule R17). -/
def State.blockIn (s : State) (v : Variant) : Block v := s.source .din v.bytes

/-- `ROWO[0..8] <- bytes` (rule R15). -/
def State.setRowOut (s : State) (bytes : Row) : State := s.setBuf .rowo 8 bytes

/-- `DOUT[0..Bv] <- bytes`; `DOUT[Bv..64]` is left (rule R18). -/
def State.setBlockOut (s : State) (v : Variant) (bytes : Block v) : State := s.setBuf .dout v.bytes bytes

/-- `BOXA[0..256] <- bytes` (rule R19). -/
def State.setBoxA (s : State) (bytes : Box) : State := s.setBuf .boxa 256 bytes

/-- `BOXB[0..256] <- bytes` (rule R20). -/
def State.setBoxB (s : State) (bytes : Box) : State := s.setBuf .boxb 256 bytes

end Sys2Proof.Machine
end

