-- ==== Sys2Proof/Machine/Confusion.lean ====
section
/-! DEFINITION. The confusion function (44_confusion.md, rules R140, R141) and the commands `CF.F`, `CF.FI` (rules R143,
R144). Each `let` of a step hides the byte it replaces, as the assignments of the rule's listing do (decision D25). -/

namespace Sys2Proof.Machine

/-- `func_f(p, k)` (rule R140). -/
def funcF (p k : Row) : Row :=
  let p0 := p[0]
  let p1 := p[1]
  let p2 := p[2]
  let p3 := p[3]
  let p4 := p[4]
  let p5 := p[5]
  let p6 := p[6]
  let p7 := p[7]
  -- step 1
  let p1 := p1 ^^^ p0 ^^^ p2
  let p6 := p6 ^^^ p5 ^^^ p7
  -- step 2
  let p1 := rotl8 p1 3
  let p2 := p2 ^^^ p4
  let p6 := rotr8 p6 2
  -- step 3
  let p2 := rotl8 p2 2
  let p5 := p5 ^^^ p3 ^^^ p6
  -- step 4
  let p4 := rotr8 p4 4
  let p4 := p4 ^^^ p1
  -- step 5
  let p3 := p3 ^^^ p4 ^^^ p7
  let p5 := rotl8 p5 1
  -- step 6
  let p0 := p0 ^^^ p2
  let p7 := p7 ^^^ p5
  -- steps 7 and 8: the subkey, then the permutation of positions
  #v[p4 ^^^ k[4], p5 ^^^ k[5], p0 ^^^ k[0], p1 ^^^ k[1], p6 ^^^ k[6], p7 ^^^ k[7], p2 ^^^ k[2], p3 ^^^ k[3]]

/-- `func_f_inv(q, k)` (rule R141). -/
def funcFInv (q k : Row) : Row :=
  -- undo step 8, then step 7
  let p4 := q[0] ^^^ k[4]
  let p5 := q[1] ^^^ k[5]
  let p0 := q[2] ^^^ k[0]
  let p1 := q[3] ^^^ k[1]
  let p6 := q[4] ^^^ k[6]
  let p7 := q[5] ^^^ k[7]
  let p2 := q[6] ^^^ k[2]
  let p3 := q[7] ^^^ k[3]
  -- undo step 6
  let p7 := p7 ^^^ p5
  let p0 := p0 ^^^ p2
  -- undo step 5
  let p5 := rotr8 p5 1
  let p3 := p3 ^^^ p4 ^^^ p7
  -- undo step 4
  let p4 := p4 ^^^ p1
  let p4 := rotl8 p4 4
  -- undo step 3
  let p5 := p5 ^^^ p3 ^^^ p6
  let p2 := rotr8 p2 2
  -- undo step 2
  let p6 := rotl8 p6 2
  let p2 := p2 ^^^ p4
  let p1 := rotr8 p1 3
  -- undo step 1
  let p6 := p6 ^^^ p5 ^^^ p7
  let p1 := p1 ^^^ p0 ^^^ p2
  #v[p0, p1, p2, p3, p4, p5, p6, p7]

/-- The effect of `CF.F` (rule R143). -/
def cfFStep (s : State) : State := s.setRowOut (funcF s.rowIn s.subkeyIn)

/-- `CF.F` (rule R143). -/
def execCfF (s : State) : Host.Outcome State Fault Refusal := command cfFStep s

/-- The effect of `CF.FI` (rule R144). -/
def cfFiStep (s : State) : State := s.setRowOut (funcFInv s.rowIn s.subkeyIn)

/-- `CF.FI` (rule R144). -/
def execCfFi (s : State) : Host.Outcome State Fault Refusal := command cfFiStep s

end Sys2Proof.Machine
end

