-- ==== Sys2Proof/Machine/Diffusion.lean ====
section
/-! DEFINITION. The matrix view (rule R48), the diffusion layer (43_diffusion.md, rules R130, R131) and the commands
`DF.FWD.v`, `DF.INV.v` (rules R133, R134). -/

namespace Sys2Proof.Machine

/-- The matrix view of a block: `R` rows of 8 bytes (rules R28, R48). A local value, never state. -/
abbrev Matrix (R : Nat) := Vector Row R

/-- The row-major view of a flat block: `M[r][c] = blk[8·r + c]` (rule R48). -/
def toMatrix {R : Nat} (blk : Vector Byte (8 * R)) : Matrix R :=
  Vector.ofFn fun r => Vector.ofFn fun c => blk[8 * r.val + c.val]'(by omega)

/-- The same map backwards (rule R48). -/
def toBlock {R : Nat} (m : Matrix R) : Vector Byte (8 * R) :=
  Vector.ofFn fun q => (m[q.val / 8]'(by omega))[q.val % 8]'(by omega)

/-- Forward column rotation: the entry of row `r` in column `c` moves to row `(r + c mod R) mod R`, so that row `r`
receives from row `(r − c mod R) mod R` (rule R130; log 12). -/
def diffuse {R : Nat} (m : Matrix R) : Matrix R :=
  Vector.ofFn fun r => Vector.ofFn fun c =>
    (m[(r.val + R - c.val % R) % R]'(Nat.mod_lt _ (Nat.zero_lt_of_lt r.isLt)))[c]

/-- Inverse column rotation: row `r` receives from row `(r + c mod R) mod R` (rule R131). -/
def diffuseInv {R : Nat} (m : Matrix R) : Matrix R :=
  Vector.ofFn fun r => Vector.ofFn fun c =>
    (m[(r.val + c.val % R) % R]'(Nat.mod_lt _ (Nat.zero_lt_of_lt r.isLt)))[c]

/-- `DF.FWD.v` (rule R133). -/
def diffuseStep (v : Variant) (s : State) : State :=
  s.setBlockOut v (toBlock (diffuse (toMatrix (s.blockIn v))))

/-- `DF.INV.v` (rule R134). -/
def diffuseInvStep (v : Variant) (s : State) : State :=
  s.setBlockOut v (toBlock (diffuseInv (toMatrix (s.blockIn v))))

/-- `DF.FWD.256` (rule R133). -/
def execDfFwd256 (s : State) : Host.Outcome State Fault Refusal := command (diffuseStep .v256) s

/-- `DF.FWD.384` (rule R133). -/
def execDfFwd384 (s : State) : Host.Outcome State Fault Refusal := command (diffuseStep .v384) s

/-- `DF.FWD.512` (rule R133). -/
def execDfFwd512 (s : State) : Host.Outcome State Fault Refusal := command (diffuseStep .v512) s

/-- `DF.INV.256` (rule R134). -/
def execDfInv256 (s : State) : Host.Outcome State Fault Refusal := command (diffuseInvStep .v256) s

/-- `DF.INV.384` (rule R134). -/
def execDfInv384 (s : State) : Host.Outcome State Fault Refusal := command (diffuseInvStep .v384) s

/-- `DF.INV.512` (rule R134). -/
def execDfInv512 (s : State) : Host.Outcome State Fault Refusal := command (diffuseInvStep .v512) s

end Sys2Proof.Machine
end

