-- ==== Sys2Proof/Config.lean ====
section
/-! DEFINITION. The implementation parameters of rule R4 that the spec leaves OPEN: the reduction byte `RED` and the
rotation direction `MIX_DIR`. Both are constants without a body: nothing can be proved of their values beyond what
rules R4 and R5 say. `MODE` is unobservable (rule R87) and has no parameter here (log 3). -/

namespace Sys2Proof

/-- The direction of the four rotations inside `bit_mix` (rules R4, R100). -/
inductive MixDir where
  | left
  | right
  deriving DecidableEq, Repr, Inhabited

/-- The two parameters the engine's functions depend on (rule R4). The functions take them as an argument, so that a
test can run them at an example setting and a statement can hold for every setting. -/
structure Params where
  /-- the reduction byte `RED` -/
  red : Byte
  /-- the direction `MIX_DIR` -/
  mixDir : MixDir
  deriving DecidableEq, Repr

/-- The set `IRR` of rule R5: the 30 reduction bytes for which the structure is a field. -/
def irr : List Byte :=
  [0x1B, 0x1D, 0x2B, 0x2D, 0x39, 0x3F, 0x4D, 0x5F, 0x63, 0x65, 0x69, 0x71, 0x77, 0x7B, 0x87,
   0x8B, 0x8D, 0x9F, 0xA3, 0xA9, 0xB1, 0xBD, 0xC3, 0xCF, 0xD7, 0xDD, 0xE7, 0xF3, 0xF5, 0xF9]

/-- Which of the 30 bytes of `IRR` this engine was built with: OPEN in the spec (rule R4, decision D17; log 1). -/
opaque Config.redIndex : Fin 30

/-- Which way this engine's `bit_mix` rotates: OPEN in the spec (rule R4, decision D16; log 2). -/
opaque Config.mixDir : MixDir

/-- The reduction byte `RED` of this engine: some byte of `IRR` (rules R4, R5). -/
def Config.red : Byte := irr.get (Config.redIndex.cast (by decide))

/-- The parameters of this engine (rule R4). -/
def Config.params : Params := { red := Config.red, mixDir := Config.mixDir }

/-- The hypothesis rule R5 makes every model carry: `RED ∈ IRR`. -/
theorem Config.params_red_mem_irr : Config.params.red ∈ irr :=
  List.get_mem irr _

end Sys2Proof
end

