-- ==== Sys2Proof/Machine/Field.lean ====
section
/-! DEFINITION. The field arithmetic engine (40_field_arithmetic.md): the functions of rules R81 to R85, in direct mode
(rule R87, log 3), and the four commands `GF.ADD`, `GF.SUB`, `GF.MUL`, `GF.INV` (rules R88 to R91). -/

namespace Sys2Proof.Machine

/-- `add(f, g) = f ^ g` (rule R81). -/
def gfAdd (f g : Byte) : Byte := f ^^^ g

/-- `sub = add` (rule R82). -/
def gfSub (f g : Byte) : Byte := gfAdd f g

/-- `xtime(a)`, multiplication by `x` (rule R83). -/
def xtime (p : Params) (a : Byte) : Byte :=
  (a <<< 1) ^^^ (if a.getLsbD 7 then p.red else 0x00)

/-- One pass of the loop of rule R84 at bit `i` of `g`, on the pair (`acc`, `t`). -/
def gfMulPass (p : Params) (g : Byte) (at_ : Byte × Byte) (i : Nat) : Byte × Byte :=
  (if g.getLsbD i then at_.1 ^^^ at_.2 else at_.1, xtime p at_.2)

/-- `mul(f, g)` by shift and reduce (rule R84). -/
def gfMul (p : Params) (f g : Byte) : Byte :=
  ((List.range 8).foldl (gfMulPass p g) (0x00, f)).1

/-- The bytes 0x00 to 0xFF in ascending order. -/
def allBytes : List Byte := (List.range 256).map (BitVec.ofNat 8)

/-- `inv(f)` by ascending search; 0x00 where nothing is found, so `inv(0) = 0` (rule R85, conflict C3). -/
def gfInv (p : Params) (f : Byte) : Byte :=
  (allBytes.find? fun x => gfMul p f x == 0x01).getD 0x00

/-- The effect of `GF.ADD` (rule R88). -/
def gfAddStep (s : State) : State := s.setY (gfAdd s.a s.b)

/-- `GF.ADD` (rule R88). -/
def execGfAdd (s : State) : Host.Outcome State Fault Refusal := command gfAddStep s

/-- The effect of `GF.SUB` (rule R89). -/
def gfSubStep (s : State) : State := s.setY (gfSub s.a s.b)

/-- `GF.SUB` (rule R89). -/
def execGfSub (s : State) : Host.Outcome State Fault Refusal := command gfSubStep s

/-- The effect of `GF.MUL` (rule R90). -/
def gfMulStep (s : State) : State := s.setY (gfMul Config.params s.a s.b)

/-- `GF.MUL` (rule R90). -/
def execGfMul (s : State) : Host.Outcome State Fault Refusal := command gfMulStep s

/-- The effect of `GF.INV` (rule R91). -/
def gfInvStep (s : State) : State := s.setY (gfInv Config.params s.a)

/-- `GF.INV` (rule R91). -/
def execGfInv (s : State) : Host.Outcome State Fault Refusal := command gfInvStep s

end Sys2Proof.Machine
end

