-- ==== Sys2Proof/Machine/SBox.lean ====
section
/-! DEFINITION. The S-box generator (41_sbox.md): the functions of rules R100 to R104 and the five commands `SB.MIX`,
`SB.BASE`, `SB.RND`, `SB.INVB`, `SB.DIG` (rules R106 to R110). -/

namespace Sys2Proof.Machine

/-- The rotation of rule R100, in the direction `MIX_DIR`. -/
def mixRot : MixDir → Byte → Nat → Byte
  | .left => rotl8
  | .right => rotr8

/-- `bit_mix(b)` (rule R100). -/
def bitMix (p : Params) (b : Byte) : Byte :=
  b ^^^ mixRot p.mixDir b 2 ^^^ mixRot p.mixDir b 4 ^^^ mixRot p.mixDir b 6 ^^^ mixRot p.mixDir b 7

/-- Looking a byte up in a box; a byte is always a valid index (rule R49). -/
def boxAt (box : Box) (b : Byte) : Byte := box[b.toNat]'b.isLt

/-- `base_box()` (rule R101). -/
def baseBox (p : Params) : Box :=
  Vector.ofFn fun i => bitMix p (gfInv p (BitVec.ofNat 8 i.val))

/-- `round_box(mask)` (rule R102). -/
def roundBox (p : Params) (mask : Byte) : Box :=
  (baseBox p).map (· ^^^ mask)

/-- One pass of the scatter of rule R103: `out[box[i]] <- i`. -/
def inverseBoxPass (box : Box) (out : Box) (i : Fin 256) : Box :=
  out.set box[i].toNat (BitVec.ofNat 8 i.val) box[i].isLt

/-- `inverse_box(box)` (rule R103): a zeroed array, scattered in ascending order, the last write winning. -/
def inverseBox (box : Box) : Box :=
  (List.finRange 256).foldl (inverseBoxPass box) (Vector.replicate 256 0x00)

/-- `max(b, 0x01)` on unsigned bytes (rules R6, R104). -/
def clampOne (b : Byte) : Byte := if b.toNat < 0x01 then 0x01 else b

/-- `digest(seg)` (rule R104). -/
def digest (p : Params) (seg : Row) : Byte :=
  seg.toList.foldl (fun d b => gfMul p d (clampOne b)) 0x01

/-- The effect of `SB.MIX` (rule R106). -/
def sbMixStep (s : State) : State := s.setY (bitMix Config.params s.a)

/-- `SB.MIX` (rule R106). -/
def execSbMix (s : State) : Host.Outcome State Fault Refusal := command sbMixStep s

/-- The effect of `SB.BASE` (rule R107). -/
def sbBaseStep (s : State) : State := s.setBoxA (baseBox Config.params)

/-- `SB.BASE` (rule R107). -/
def execSbBase (s : State) : Host.Outcome State Fault Refusal := command sbBaseStep s

/-- The effect of `SB.RND` (rule R108). -/
def sbRndStep (s : State) : State := s.setBoxA (roundBox Config.params s.a)

/-- `SB.RND` (rule R108). -/
def execSbRnd (s : State) : Host.Outcome State Fault Refusal := command sbRndStep s

/-- The effect of `SB.INVB` (rule R109). -/
def sbInvbStep (s : State) : State := s.setBoxB (inverseBox s.boxIn)

/-- `SB.INVB` (rule R109). -/
def execSbInvb (s : State) : Host.Outcome State Fault Refusal := command sbInvbStep s

/-- The effect of `SB.DIG` (rule R110). -/
def sbDigStep (s : State) : State := s.setY (digest Config.params s.subkeyIn)

/-- `SB.DIG` (rule R110). -/
def execSbDig (s : State) : Host.Outcome State Fault Refusal := command sbDigStep s

end Sys2Proof.Machine
end

