-- ==== Sys2Proof/Machine/KeySchedule.lean ====
section
/-! DEFINITION. The key schedule (42_key_schedule.md): the functions of rules R120 to R122 and the commands `KS.RC`,
`KS.RK.v` (rules R123, R124). -/

namespace Sys2Proof.Machine

/-- `round_constant(i)`: from 2, multiplied by 2, `i + 2` times (rule R120, conflict C2: doubling). -/
def roundConstant (p : Params) (i : Nat) : Byte :=
  (fun v => gfMul p v 0x02)^[i + 2] 0x02

/-- The recurrence of rule R121 along the bytes of `prev`: each new byte is `inv(rotl8(prev[i], 4))` XORed with the one
before it, or with the round constant at index 0. -/
def roundKeyFrom (p : Params) : Byte → List Byte → List Byte
  | _, [] => []
  | carry, b :: rest =>
    (gfInv p (rotl8 b 4) ^^^ carry) :: roundKeyFrom p (gfInv p (rotl8 b 4) ^^^ carry) rest

theorem roundKeyFrom_length (p : Params) (carry : Byte) (prev : List Byte) :
    (roundKeyFrom p carry prev).length = prev.length := by
  induction prev generalizing carry with
  | nil => rfl
  | cons b rest ih => simp [roundKeyFrom, ih]

/-- `round_key(prev, round_index)` (rule R121). -/
def roundKey (p : Params) {n : Nat} (prev : Vector Byte n) (roundIndex : Nat) : Vector Byte n :=
  ⟨(roundKeyFrom p (roundConstant p roundIndex) prev.toList).toArray, by simp [roundKeyFrom_length]⟩

/-- Round key `r` of the chain of rule R122: `prev` is the master key for round 0 and the previous round's key
otherwise. -/
def chainKey (p : Params) {n : Nat} (key : Vector Byte n) : Nat → Vector Byte n
  | 0 => roundKey p key 0
  | r + 1 => roundKey p (chainKey p key r) (r + 1)

/-- `expand(K, N)` (rule R122): round keys 0 to `N − 1`. -/
def expand (p : Params) {n : Nat} (key : Vector Byte n) (rounds : Nat) : Vector (Vector Byte n) rounds :=
  Vector.ofFn fun r => chainKey p key r.val

/-- The effect of `KS.RC` (rule R123). -/
def ksRcStep (s : State) : State := s.setY (roundConstant Config.params s.idx.toNat)

/-- `KS.RC` (rule R123); every `IDX` is legal. -/
def execKsRc (s : State) : Host.Outcome State Fault Refusal := command ksRcStep s

/-- `KS.RK.v` (rule R124). -/
def keyStep (v : Variant) (s : State) : State :=
  s.setBlockOut v (roundKey Config.params (s.keyIn v) s.idx.toNat)

/-- `KS.RK.256` (rule R124). -/
def execKsRk256 (s : State) : Host.Outcome State Fault Refusal := command (keyStep .v256) s

/-- `KS.RK.384` (rule R124). -/
def execKsRk384 (s : State) : Host.Outcome State Fault Refusal := command (keyStep .v384) s

/-- `KS.RK.512` (rule R124). -/
def execKsRk512 (s : State) : Host.Outcome State Fault Refusal := command (keyStep .v512) s

end Sys2Proof.Machine
end

