-- ==== Sys2Proof/Machine/Orchestrator.lean ====
section
/-! DEFINITION. The cipher orchestrator (45_orchestrator.md): the functions of rules R150 to R154 and the commands
`CI.NEW.v`, `CI.ENC.v`, `CI.DEC.v`, `CI.FREE.v` (rules R156 to R159). -/

namespace Sys2Proof.Machine

/-- `substitute(boxes, m)`: every byte of row `r` through that row's box (rule R150). `substitute_inv` is the same
function on the inverse boxes. -/
def substitute {R : Nat} (boxes : Vector Box R) (m : Matrix R) : Matrix R :=
  Vector.ofFn fun r => Vector.ofFn fun c => boxAt boxes[r] m[r][c]

/-- The confusion layer of a round: each row under `func_f`, keyed by its slice of the round key (rule R152). -/
def confuse {R : Nat} (rk : Matrix R) (m : Matrix R) : Matrix R :=
  Vector.ofFn fun r => funcF m[r] rk[r]

/-- The inverse confusion layer of a round (rule R152). -/
def confuseInv {R : Nat} (rk : Matrix R) (m : Matrix R) : Matrix R :=
  Vector.ofFn fun r => funcFInv m[r] rk[r]

/-- `round_fwd(r, m)` with the round's key and boxes (rule R152). -/
def roundFwd {R : Nat} (rk : Vector Byte (8 * R)) (boxes : Vector Box R) (m : Matrix R) : Matrix R :=
  confuse (toMatrix rk) (substitute boxes (diffuse m))

/-- `round_bwd(r, m)` with the round's key and inverse boxes (rule R152). -/
def roundBwd {R : Nat} (rk : Vector Byte (8 * R)) (boxes : Vector Box R) (m : Matrix R) : Matrix R :=
  diffuseInv (substitute boxes (confuseInv (toMatrix rk) m))

/-- `construct(K)` (rule R151): the round keys, and for each round and row the S-box masked by the digest of that row's
slice of the round key, with its inverse. -/
def construct (p : Params) (v : Variant) (key : Block v) : Inst v :=
  let rk := expand p key v.rounds
  let sb := Vector.ofFn fun r => Vector.ofFn fun j => roundBox p (digest p (toMatrix rk[r])[j])
  { rk := rk
    sb := sb
    si := Vector.ofFn fun r => Vector.ofFn fun j => inverseBox sb[r][j] }

/-- `encrypt(inst, blk)`: rounds 0 to `N − 1` (rule R153). -/
def encrypt {v : Variant} (inst : Inst v) (blk : Block v) : Block v :=
  toBlock ((List.finRange v.rounds).foldl (fun m r => roundFwd inst.rk[r] inst.sb[r] m) (toMatrix blk))

/-- `decrypt(inst, blk)`: rounds `N − 1` down to 0 (rule R154). -/
def decrypt {v : Variant} (inst : Inst v) (blk : Block v) : Block v :=
  toBlock ((List.finRange v.rounds).foldr (fun r m => roundBwd inst.rk[r] inst.si[r] m) (toMatrix blk))

/-- `CI.NEW.v` (rule R156): the slot is replaced as a whole and becomes valid. -/
def constructStep (v : Variant) (s : State) : State :=
  s.setCtx v { valid := true, inst := construct Config.params v (s.keyIn v) }

/-- `CI.ENC.v` on a valid slot (rule R157). -/
def encryptStep (v : Variant) (s : State) : State :=
  s.setBlockOut v (encrypt (s.ctx v).inst (s.blockIn v))

/-- `CI.DEC.v` on a valid slot (rule R158). -/
def decryptStep (v : Variant) (s : State) : State :=
  s.setBlockOut v (decrypt (s.ctx v).inst (s.blockIn v))

/-- `CI.FREE.v` (rule R159): the slot becomes invalid and its contents zero. -/
def freeStep (v : Variant) (s : State) : State :=
  s.setCtx v { valid := false, inst := Inst.zero v }

/-- `CI.NEW.256` (rule R156). -/
def execCiNew256 (s : State) : Host.Outcome State Fault Refusal := command (constructStep .v256) s

/-- `CI.NEW.384` (rule R156). -/
def execCiNew384 (s : State) : Host.Outcome State Fault Refusal := command (constructStep .v384) s

/-- `CI.NEW.512` (rule R156). -/
def execCiNew512 (s : State) : Host.Outcome State Fault Refusal := command (constructStep .v512) s

/-- `CI.ENC.256` (rule R157). -/
def execCiEnc256 (s : State) : Host.Outcome State Fault Refusal :=
  commandOnSlot .v256 (encode .ciEnc256) (encryptStep .v256) s

/-- `CI.ENC.384` (rule R157). -/
def execCiEnc384 (s : State) : Host.Outcome State Fault Refusal :=
  commandOnSlot .v384 (encode .ciEnc384) (encryptStep .v384) s

/-- `CI.ENC.512` (rule R157). -/
def execCiEnc512 (s : State) : Host.Outcome State Fault Refusal :=
  commandOnSlot .v512 (encode .ciEnc512) (encryptStep .v512) s

/-- `CI.DEC.256` (rule R158). -/
def execCiDec256 (s : State) : Host.Outcome State Fault Refusal :=
  commandOnSlot .v256 (encode .ciDec256) (decryptStep .v256) s

/-- `CI.DEC.384` (rule R158). -/
def execCiDec384 (s : State) : Host.Outcome State Fault Refusal :=
  commandOnSlot .v384 (encode .ciDec384) (decryptStep .v384) s

/-- `CI.DEC.512` (rule R158). -/
def execCiDec512 (s : State) : Host.Outcome State Fault Refusal :=
  commandOnSlot .v512 (encode .ciDec512) (decryptStep .v512) s

/-- `CI.FREE.256` (rule R159). -/
def execCiFree256 (s : State) : Host.Outcome State Fault Refusal := command (freeStep .v256) s

/-- `CI.FREE.384` (rule R159). -/
def execCiFree384 (s : State) : Host.Outcome State Fault Refusal := command (freeStep .v384) s

/-- `CI.FREE.512` (rule R159). -/
def execCiFree512 (s : State) : Host.Outcome State Fault Refusal := command (freeStep .v512) s

end Sys2Proof.Machine
end

