-- ==== Sys2Proof/Machine/Dispatch.lean ====
section
/-! DEFINITION. The meaning of every command: one arm for each constructor of `Instr`. -/

namespace Sys2Proof.Machine

def exec (i : Instr) (s : State) : Host.Outcome State Fault Refusal :=
  match i with
  | .gfAdd => Sys2Proof.Machine.execGfAdd s
  | .gfSub => Sys2Proof.Machine.execGfSub s
  | .gfMul => Sys2Proof.Machine.execGfMul s
  | .gfInv => Sys2Proof.Machine.execGfInv s
  | .sbMix => Sys2Proof.Machine.execSbMix s
  | .sbBase => Sys2Proof.Machine.execSbBase s
  | .sbRnd => Sys2Proof.Machine.execSbRnd s
  | .sbInvb => Sys2Proof.Machine.execSbInvb s
  | .sbDig => Sys2Proof.Machine.execSbDig s
  | .ksRc => Sys2Proof.Machine.execKsRc s
  | .ksRk256 => Sys2Proof.Machine.execKsRk256 s
  | .dfFwd256 => Sys2Proof.Machine.execDfFwd256 s
  | .dfInv256 => Sys2Proof.Machine.execDfInv256 s
  | .cfF => Sys2Proof.Machine.execCfF s
  | .cfFi => Sys2Proof.Machine.execCfFi s
  | .ciNew256 => Sys2Proof.Machine.execCiNew256 s
  | .ciEnc256 => Sys2Proof.Machine.execCiEnc256 s
  | .ciDec256 => Sys2Proof.Machine.execCiDec256 s
  | .ciFree256 => Sys2Proof.Machine.execCiFree256 s
  | .ksRk384 => Sys2Proof.Machine.execKsRk384 s
  | .dfFwd384 => Sys2Proof.Machine.execDfFwd384 s
  | .dfInv384 => Sys2Proof.Machine.execDfInv384 s
  | .ciNew384 => Sys2Proof.Machine.execCiNew384 s
  | .ciEnc384 => Sys2Proof.Machine.execCiEnc384 s
  | .ciDec384 => Sys2Proof.Machine.execCiDec384 s
  | .ciFree384 => Sys2Proof.Machine.execCiFree384 s
  | .ksRk512 => Sys2Proof.Machine.execKsRk512 s
  | .dfFwd512 => Sys2Proof.Machine.execDfFwd512 s
  | .dfInv512 => Sys2Proof.Machine.execDfInv512 s
  | .ciNew512 => Sys2Proof.Machine.execCiNew512 s
  | .ciEnc512 => Sys2Proof.Machine.execCiEnc512 s
  | .ciDec512 => Sys2Proof.Machine.execCiDec512 s
  | .ciFree512 => Sys2Proof.Machine.execCiFree512 s

end Sys2Proof.Machine
end

