-- ==== Sys2Proof/Machine/Flags.lean ====
section
/-! DEFINITION. The flags: the four live bits of `STATUS` (rule R22). There are no arithmetic condition codes. -/

namespace Sys2Proof.Machine

/-- One flag as a byte, `zext_8` of one bit (rule R6). -/
def flagByte (f : Bool) : Byte := (BitVec.ofBool f).setWidth 8

/-- `STATUS` as the host reads it, assembled by the formula of rule R42; bits 7:4 are hardwired 0 (rule R22). -/
def State.status (s : State) : Byte :=
  (flagByte s.ctx512.valid <<< 3) ||| (flagByte s.ctx384.valid <<< 2) ||| (flagByte s.ctx256.valid <<< 1)
    ||| flagByte s.err

/-- The `STATUS` bit number of a variant's valid flag: `1 + v` (rules R22, R156). -/
def validFlagBit : Variant → Nat
  | .v256 => 1
  | .v384 => 2
  | .v512 => 3

end Sys2Proof.Machine
end

