-- ==== Sys2Proof/Machine/Transact.lean ====
section
/-! DEFINITION. Host transactions (rules R42 to R44, R190) and the execution of the byte written to `CMD` (rule R69). -/

namespace Sys2Proof.Machine

/-- The byte of the cell that stands at an address, for the cells the host may read (rules R41, R42). -/
def State.cellValue (s : State) (addr : Nat) : Target → Byte
  | .cmd => 0x00
  | .status => s.status
  | .cause => s.cause
  | .fcmd => s.fcmd
  | .idx => s.idx
  | .a => s.a
  | .b => s.b
  | .y => s.y
  | .buf _ => Memory.read s.mem addr
  | .reserved => 0x00

/-- The state with the cell that stands at an address replaced, for the cells the host may write (rules R41, R43). -/
def State.setCell (s : State) (addr : Nat) (v : Byte) : Target → State
  | .idx => { s with idx := v }
  | .a => { s with a := v }
  | .b => { s with b := v }
  | .buf _ => { s with mem := Memory.write addr v s.mem }
  | .cmd | .status | .cause | .fcmd | .y | .reserved => s

/-- The byte `MemRead(addr, 1)` returns (rule R42); write-only and reserved addresses read 0x00 (rule R44). -/
def hostRead (s : State) (addr : Addr) : Byte :=
  match lookup addr.toNat with
  | (target, .readWrite) => s.cellValue addr.toNat target
  | (target, .readOnly) => s.cellValue addr.toNat target
  | (_, .writeOnly) => 0x00
  | (_, .none) => 0x00

/-- The execution of command byte `c`, a write to `CMD` (rule R69): a legal byte runs its command, an illegal one is
`IllegalCommand`. Both are ignored while halted. -/
def execByte (c : Byte) (s : State) : Host.Outcome State Fault Refusal :=
  match decode c with
  | .ok i => exec i s
  | .error _ => illegalCommand c s

/-- `MemWrite(addr, 1, v)` (rules R43, R44): the command port executes, a RW cell takes the byte, anything else ignores
the write. -/
def hostWrite (addr : Addr) (v : Byte) (s : State) : Host.Outcome State Fault Refusal :=
  match lookup addr.toNat with
  | (_, .writeOnly) => execByte v s
  | (target, .readWrite) => .next (s.setCell addr.toNat v target)
  | (_, .readOnly) => .next s
  | (_, .none) => .next s

/-- One host transaction, as one atomic step (rules R45, R50). What a read returns goes to the host (log 5). -/
def transact : Transaction → State → Host.Outcome State Fault Refusal
  | .read addr, s => .next { s with host := { s.host with readData := some (hostRead s addr) } }
  | .write addr v, s => hostWrite addr v s
  | .reset, s => .next (resetEngine s)

/-- The window address of the command port (rule R21). -/
def cmdPort : Addr := 0x000

/-- The host's next transaction taken off its queue. -/
def State.afterTaking (s : State) (rest : List Transaction) : State :=
  { s with host := { s.host with pending := rest } }

end Sys2Proof.Machine
end

