-- ==== Sys2Proof/Machine/Step.lean ====
section
/-! DEFINITION. One step of the machine: the host's next transaction, complete before the one after it (rules R27, R50). -/

namespace Sys2Proof.Machine

/-- One step. With nothing pending the engine is idle and keeps all state (rule R181, log 6). -/
def step (s : State) : Host.Outcome State Fault Refusal :=
  match s.host.pending with
  | [] => .next s
  | t :: rest => transact t (s.afterTaking rest)

/-- The state in which the host's next transaction is the write to `CMD` of the command whose bits are `w` (rule R27:
the next command is whichever byte the host writes to `CMD` next; log 7). -/
def State.withFetchWord (s : State) (nbits w : Nat) : State :=
  s.afterTaking (.write cmdPort (BitVec.ofNat 8 (w % 2 ^ nbits)) :: s.host.pending)

end Sys2Proof.Machine
end

