-- ==== Sys2Proof/Machine/HostProgram.lean ====
section
/-! DEFINITION. The notation for host programs (rules R67, R68): each statement is a sequence of host transactions.
`COPY` needs the byte each read returned, so statements run through `transact` (log 13). -/

namespace Sys2Proof.Machine

/-- The statements of rules R67 and R68. A buffer is named in place of its address (rule R67). -/
inductive Stmt where
  /-- `WR addr, byte` -/
  | wr (addr : Addr) (v : Byte)
  /-- `RD addr` -/
  | rd (addr : Addr)
  /-- `CMD mnemonic` -/
  | cmd (i : Instr)
  /-- `RESET` -/
  | reset
  /-- `FILL buf, b0 b1 ...` -/
  | fill (which : Buf) (bytes : List Byte)
  /-- `ZERO buf, n` -/
  | zero (which : Buf) (n : Nat)
  /-- `COPY dst, src, n` -/
  | copy (dst src : Buf) (n : Nat)
  /-- `EXPECT buf, b0 b1 ...` -/
  | expect (which : Buf) (bytes : List Byte)
  deriving DecidableEq, Repr

/-- The window address of element `i` of a buffer (rule R41). -/
def bufAddr (which : Buf) (i : Nat) : Addr := BitVec.ofNat 10 (which.base + i)

/-- Writes of consecutive elements from element `i`, ascending (rule R68). -/
def fillFrom (which : Buf) : Nat → List Byte → List Transaction
  | _, [] => []
  | i, v :: vs => .write (bufAddr which i) v :: fillFrom which (i + 1) vs

/-- Reads of elements 0 to `n − 1`, ascending (rule R68). -/
def readsOf (which : Buf) (n : Nat) : List Transaction :=
  (List.range n).map fun i => .read (bufAddr which i)

/-- The transactions of a statement that needs no byte read back (rules R67, R68). -/
def Stmt.transactions : Stmt → List Transaction
  | .wr addr v => [.write addr v]
  | .rd addr => [.read addr]
  | .cmd i => [.write cmdPort (encode i)]
  | .reset => [.reset]
  | .fill which bytes => fillFrom which 0 bytes
  | .zero which n => fillFrom which 0 (List.replicate n 0x00)
  | .copy _ _ _ => []
  | .expect which bytes => readsOf which bytes.length

/-- Continuing after a transaction that answered a next state. -/
def andThen (o : Host.Outcome State Fault Refusal) (f : State → Host.Outcome State Fault Refusal) :
    Host.Outcome State Fault Refusal :=
  match o with
  | .next s => f s
  | .fault r => .fault r
  | .refused r => .refused r

/-- Transactions one after another (rule R50). -/
def transactAll : List Transaction → State → Host.Outcome State Fault Refusal
  | [], s => .next s
  | t :: ts, s => andThen (transact t s) (transactAll ts)

/-- One element of `COPY`: `RD src[i] -> t ; WR dst[i], t` (rule R68). -/
def copyElement (dst src : Buf) (i : Nat) (s : State) : Host.Outcome State Fault Refusal :=
  andThen (transact (.read (bufAddr src i)) s) fun t =>
    transact (.write (bufAddr dst i) (t.host.readData.getD 0x00)) t

/-- `COPY` of elements from `i` on, ascending (rule R68). -/
def copyFrom (dst src : Buf) : Nat → Nat → State → Host.Outcome State Fault Refusal
  | _, 0, s => .next s
  | i, n + 1, s => andThen (copyElement dst src i s) (copyFrom dst src (i + 1) n)

/-- A statement carried out (rules R67, R68). -/
def Stmt.run : Stmt → State → Host.Outcome State Fault Refusal
  | .copy dst src n, s => copyFrom dst src 0 n s
  | .wr addr v, s => transactAll (Stmt.wr addr v).transactions s
  | .rd addr, s => transactAll (Stmt.rd addr).transactions s
  | .cmd i, s => transactAll (Stmt.cmd i).transactions s
  | .reset, s => transactAll Stmt.reset.transactions s
  | .fill which bytes, s => transactAll (Stmt.fill which bytes).transactions s
  | .zero which n, s => transactAll (Stmt.zero which n).transactions s
  | .expect which bytes, s => transactAll (Stmt.expect which bytes).transactions s

/-- What `EXPECT` asserts: each read returns the listed byte (rule R68). -/
def Stmt.holds : Stmt → State → Bool
  | .expect which bytes, s => (List.range bytes.length).map (fun i => hostRead s (bufAddr which i)) == bytes
  | .wr _ _, _ | .rd _, _ | .cmd _, _ | .reset, _ | .fill _ _, _ | .zero _ _, _ | .copy _ _ _, _ => true

/-- A host program: its statements in order. -/
def runProgram : List Stmt → State → Host.Outcome State Fault Refusal
  | [], s => .next s
  | p :: ps, s => andThen (p.run s) (runProgram ps)

end Sys2Proof.Machine
end

