-- ==== Sys2Proof/Machine/Tables.lean ====
section
/-! DEFINITION. The constant tables of tabulated mode (rules R29, R87): made by running the direct functions over all
inputs. They are not state and no command reads them here: `MODE` is unobservable (log 3). -/

namespace Sys2Proof.Machine

/-- `MULTAB[f][g] = mul(f, g)` (rule R29). -/
def mulTable (p : Params) : Vector Box 256 :=
  Vector.ofFn fun f => Vector.ofFn fun g => gfMul p (BitVec.ofNat 8 f.val) (BitVec.ofNat 8 g.val)

/-- `INVTAB[f] = inv(f)` (rule R29). -/
def invTable (p : Params) : Box :=
  Vector.ofFn fun f => gfInv p (BitVec.ofNat 8 f.val)

/-- `BASEBOX[i] = base_box()[i]` (rule R29). -/
def baseBoxTable (p : Params) : Box := baseBox p

/-- `tabulated.mul(f, g)` (rule R87). -/
def mulTabulated (p : Params) (f g : Byte) : Byte :=
  boxAt ((mulTable p)[f.toNat]'f.isLt) g

/-- `tabulated.inv(f)` (rule R87). -/
def invTabulated (p : Params) (f : Byte) : Byte := boxAt (invTable p) f

end Sys2Proof.Machine
end

