-- ==== Sys2Proof/Safety.lean ====
section
/-! DEFINITION. What a good state and a good run are, in the terms the statements use: the halted state of rule R176 as
the one bad outcome, the invariants that rules R23, R24, R26 state, and what it means to store to one buffer only. -/

namespace Sys2Proof.Machine

/-- Not halted. "A program that reaches it [the halted state] has gone wrong" (rule R176). -/
abbrev State.running (s : State) : Prop := s.err = false

/-- A window address of some buffer (rule R41), the only places `State.mem` lists. -/
def bufferAddress (addr : Nat) : Prop :=
  ∃ which : Buf, which.base ≤ addr ∧ addr < which.base + which.size

/-- The memory is canonical and lists buffer cells only. -/
def State.memoryOk (s : State) : Prop :=
  Memory.wf s.mem ∧ ∀ c ∈ s.mem, bufferAddress c.1

/-- A byte that decodes to no command (rule R64). -/
def illegalByte (c : Byte) : Prop := ∀ i, decode c ≠ .ok i

/-- The fault registers agree with each other (rules R23, R24, R170, R175): no fault and all zero, or `IllegalCommand`
on an illegal byte, or `ContextInvalid` on a `CI.ENC` or `CI.DEC` byte. -/
def State.faultRecordOk (s : State) : Prop :=
  (s.err = false ∧ s.cause = 0x00 ∧ s.fcmd = 0x00) ∨
  (s.err = true ∧ s.cause = 0x01 ∧ illegalByte s.fcmd) ∨
  (s.err = true ∧ s.cause = 0x02 ∧ ∃ v : Variant, decode s.fcmd = .ok (.ciEnc v) ∨ decode s.fcmd = .ok (.ciDec v))

/-- A slot holds the instance some master key constructs while it is valid (rule R26), and zeroes while it is not
(rules R31, R159). -/
def slotOk {v : Variant} (c : Ctx v) : Prop :=
  if c.valid then ∃ key : Block v, c.inst = construct Config.params v key else c.inst = Inst.zero v

/-- The invariant of the machine: canonical memory, consistent fault registers, slots as rule R26 says. -/
def State.Inv (s : State) : Prop :=
  s.memoryOk ∧ s.faultRecordOk ∧ ∀ v, slotOk (s.ctx v)

/-- `t` is `s` after exactly `n` bytes were stored to the front of one buffer: those cells hold the bytes, every other
cell of memory reads as before, and no other part of the state changed. -/
def storesExactly (s t : State) (which : Buf) (n : Nat) (bytes : Vector Byte n) : Prop :=
  t = { s with mem := t.mem } ∧
  (∀ (i : Nat) (h : i < n), Memory.read t.mem (which.base + i) = bytes[i]) ∧
  ∀ addr, (addr < which.base ∨ which.base + n ≤ addr) → Memory.read t.mem addr = Memory.read s.mem addr

/-- `k` steps of the machine from `s` all answer next states and none of them is halted. -/
def safeFor : Nat → State → Prop
  | 0, s => s.running
  | k + 1, s => s.running ∧ ∃ t, step s = .next t ∧ safeFor k t

/-- A box that is a permutation of the 256 bytes (rule R105). -/
def isPermutation (box : Box) : Prop := Function.Bijective (boxAt box)

end Sys2Proof.Machine
end

