-- ==== Sys2Proof/Certificates/Slice0/Obligations.lean ====
section
/-! DEFINITION. The statements for the provers: what the commands, the host port, the faults, the reset and the pure
functions of the spec do. Each docstring names the rule or the section of spec/ it formalises. -/

open Sys2Proof Sys2Proof.Machine

/-! ### Encoding (30_encoding.md) -/

/-- Rules R60 to R63: decoding a byte gives a command exactly when the byte is that command's encoding. -/
def Obligations.DecodeAcceptsExactlyTheEncodings : Prop :=
  ∀ (c : Byte) (i : Instr), decode c = .ok i ↔ encode i = c

/-- Rule R62: the command byte of every command, as its table prints them. -/
def Obligations.CommandBytesAreThoseOfTheTable : Prop :=
  encode .gfAdd = 0x01 ∧ encode .gfSub = 0x02 ∧ encode .gfMul = 0x03 ∧ encode .gfInv = 0x04 ∧
  encode .sbMix = 0x08 ∧ encode .sbBase = 0x09 ∧ encode .sbRnd = 0x0A ∧ encode .sbInvb = 0x0B ∧
  encode .sbDig = 0x0C ∧ encode .ksRc = 0x10 ∧
  encode .ksRk256 = 0x11 ∧ encode .ksRk384 = 0x51 ∧ encode .ksRk512 = 0x91 ∧
  encode .dfFwd256 = 0x18 ∧ encode .dfFwd384 = 0x58 ∧ encode .dfFwd512 = 0x98 ∧
  encode .dfInv256 = 0x19 ∧ encode .dfInv384 = 0x59 ∧ encode .dfInv512 = 0x99 ∧
  encode .cfF = 0x20 ∧ encode .cfFi = 0x21 ∧
  encode .ciNew256 = 0x28 ∧ encode .ciNew384 = 0x68 ∧ encode .ciNew512 = 0xA8 ∧
  encode .ciEnc256 = 0x29 ∧ encode .ciEnc384 = 0x69 ∧ encode .ciEnc512 = 0xA9 ∧
  encode .ciDec256 = 0x2A ∧ encode .ciDec384 = 0x6A ∧ encode .ciDec512 = 0xAA ∧
  encode .ciFree256 = 0x2B ∧ encode .ciFree384 = 0x6B ∧ encode .ciFree512 = 0xAB

/-- Rules R63 and R64: a byte is legal exactly when it is one of the 33 listed bytes, the decoder and the
well-formedness checks agree on which these are, and each of the 223 others is rejected for its own reason. The three
names of the reasons are the model's (DESIGN CHOICE, log 10); the spec gives only which bytes are illegal. -/
def Obligations.IllegalBytesAreRejectedByName : Prop :=
  (∀ c : Byte, (∃ i, decode c = .ok i) ↔
    c ∈ ([0x01, 0x02, 0x03, 0x04, 0x08, 0x09, 0x0A, 0x0B, 0x0C, 0x10, 0x11, 0x18, 0x19, 0x20, 0x21, 0x28, 0x29, 0x2A,
      0x2B, 0x51, 0x58, 0x59, 0x68, 0x69, 0x6A, 0x6B, 0x91, 0x98, 0x99, 0xA8, 0xA9, 0xAA, 0xAB] : List Byte)) ∧
  (allBytes.filter fun c => !(decode c).isOk).length = 223 ∧
  (∀ c : Byte, (∃ i, decode c = .ok i) ↔ (CmdWord.ofByte c).wellFormed = true) ∧
  (∀ c : Byte, c.extractLsb' 6 2 = 3 → decode c = .error .reservedVariant) ∧
  (∀ c : Byte, c.extractLsb' 6 2 ≠ 3 → (CmdWord.ofByte c).opAssigned = false → decode c = .error .unassignedOp) ∧
  (∀ c : Byte, c.extractLsb' 6 2 ≠ 3 → c.extractLsb' 6 2 ≠ 0 → c.extractLsb' 0 6 ∈ CmdWord.fixedOps →
    decode c = .error .variantOnFixedOp)

/-- A few command bytes of rule R62, one from each family, decode to the commands they stand for, and three bytes that
rule R64 calls illegal are rejected. The names they are rejected under are the model's (DESIGN CHOICE, log 10). -/
def Obligations.SampleCommandBytesDecode : Prop :=
  decode 0b00000011 = .ok .gfMul ∧ decode 0b00001011 = .ok .sbInvb ∧ decode 0b01010001 = .ok .ksRk384 ∧
  decode 0b10011001 = .ok .dfInv512 ∧ decode 0b00100001 = .ok .cfFi ∧ decode 0b10101000 = .ok .ciNew512 ∧
  decode 0b01101010 = .ok .ciDec384 ∧ decode 0b00000000 = .error .unassignedOp ∧
  decode 0b01000011 = .error .variantOnFixedOp ∧ decode 0b11101001 = .error .reservedVariant

/-! ### The host port and the step (20_memory.md, 30_encoding.md section 5) -/

/-- Rules R43 and R69: when the host's next transaction writes the byte of command `i` to `CMD`, the step is `exec i`
on the state with that transaction taken off the queue. The queue is the model's form of the host (DESIGN CHOICE, log 4). -/
def Obligations.StepRunsTheDecodedCommand : Prop :=
  ∀ (s : State) (c : Byte) (i : Instr) (rest : List Transaction),
    s.host.pending = .write 0x000 c :: rest → decode c = .ok i → i.fields.wellFormed = true →
    step s = exec i { s with host := { s.host with pending := rest } }

/-- Rules R171 and R175: what taking a fault writes, and that a byte that is no command takes `IllegalCommand`. -/
def Obligations.IllegalCommandTakesItsFault : Prop :=
  (∀ (s : State) (c : Byte),
    takeFault .illegalCommand c s = { s with cause := 0x01, fcmd := c, err := true } ∧
    takeFault .contextInvalid c s = { s with cause := 0x02, fcmd := c, err := true }) ∧
  ∀ (s : State) (c : Byte), s.running → (∀ i, decode c ≠ .ok i) →
    transact (.write 0x000 c) s = .next { s with cause := 0x01, fcmd := c, err := true } ∧
    ∀ rest, s.host.pending = .write 0x000 c :: rest →
      step s = .next
        { s with cause := 0x01, fcmd := c, err := true, host := { s.host with pending := rest } }

/-- Rule R172. `v.field ++ 0x29` is the byte of `CI.ENC.v`, `v.field ++ 0x2A` that of `CI.DEC.v`. -/
def Obligations.InvalidSlotTakesContextInvalid : Prop :=
  ∀ (s : State) (v : Variant), s.running → (s.ctx v).valid = false →
    exec (.ciEnc v) s = .next { s with cause := 0x02, fcmd := v.field ++ (0x29 : BitVec 6), err := true } ∧
    exec (.ciDec v) s = .next { s with cause := 0x02, fcmd := v.field ++ (0x2A : BitVec 6), err := true } ∧
    (∀ i : Instr, (∀ w, i ≠ .ciEnc w ∧ i ≠ .ciDec w) → ∃ t, exec i s = .next t ∧ t.running)

/-- Rule R176: while halted, commands are ignored, reads and writes of RW cells work as ever, and only a reset ends it. -/
def Obligations.HaltedEngineIgnoresCommandsUntilReset : Prop :=
  ∀ s : State, s.err = true →
    (∀ c, transact (.write 0x000 c) s = .next s) ∧
    (∀ i, exec i s = .next s) ∧
    (∀ addr : Addr, addr ≠ 0x001 → hostRead s addr = hostRead { s with err := false } addr) ∧
    (∀ (addr : Addr) (x : Byte), addr ≠ 0x000 →
      ∃ t, transact (.write addr x) s = .next t ∧
        transact (.write addr x) { s with err := false } = .next { t with err := false }) ∧
    (∀ t, step s = .next t →
      (t.err = true ∧ t.cause = s.cause ∧ t.fcmd = s.fcmd ∧ ∀ v, t.ctx v = s.ctx v) ∨
      (s.host.pending.head? = some .reset ∧ t.err = false ∧ ∀ v, (t.ctx v).valid = false))

/-- What a read of each address returns, and that it changes nothing of the engine (after rule R42). That the returned
byte is put into `host.readData` is the model's form (DESIGN CHOICE, log 5); that reads of write-only and reserved
addresses are answered with 0x00 and not refused, which rule R44 would allow too, is the model's choice (log 10). -/
def Obligations.HostReadReturnsTheMappedCell : Prop :=
  ∀ (s : State) (addr : Addr),
    transact (.read addr) s = .next { s with host := { s.host with readData := some (hostRead s addr) } } ∧
    hostRead s addr =
      (if addr.toNat = 0x000 then (0x00 : Byte)
      else if addr.toNat = 0x001 then
        ((BitVec.ofBool s.ctx512.valid).setWidth 8 <<< 3) ||| ((BitVec.ofBool s.ctx384.valid).setWidth 8 <<< 2) |||
          ((BitVec.ofBool s.ctx256.valid).setWidth 8 <<< 1) ||| (BitVec.ofBool s.err).setWidth 8
      else if addr.toNat = 0x002 then s.cause
      else if addr.toNat = 0x003 then s.fcmd
      else if addr.toNat = 0x004 then s.idx
      else if addr.toNat = 0x005 then s.a
      else if addr.toNat = 0x006 then s.b
      else if addr.toNat = 0x007 then s.y
      else if addr.toNat < 0x020 then Memory.read s.mem addr.toNat
      else if addr.toNat < 0x040 then 0x00
      else if addr.toNat < 0x300 then Memory.read s.mem addr.toNat
      else 0x00)

/-- A write to a RW cell changes that cell and nothing else, a write to 0x000 executes (after rule R43), and any other
write leaves the state unchanged (after rule R44). That such a write is ignored and not refused, which rule R44 would
allow too, is the model's choice (DESIGN CHOICE, log 10). -/
def Obligations.HostWriteChangesOnlyItsCell : Prop :=
  ∀ (s : State) (addr : Addr) (x : Byte),
    (addr.toNat = 0x000 → transact (.write addr x) s = execByte x s) ∧
    (addr.toNat = 0x004 → transact (.write addr x) s = .next { s with idx := x }) ∧
    (addr.toNat = 0x005 → transact (.write addr x) s = .next { s with a := x }) ∧
    (addr.toNat = 0x006 → transact (.write addr x) s = .next { s with b := x }) ∧
    ((0x008 ≤ addr.toNat ∧ addr.toNat < 0x018) ∨ (0x040 ≤ addr.toNat ∧ addr.toNat < 0x0C0) ∨
        (0x100 ≤ addr.toNat ∧ addr.toNat < 0x200) →
      ∃ t, transact (.write addr x) s = .next t ∧ t = { s with mem := t.mem } ∧
        Memory.read t.mem addr.toNat = x ∧
        ∀ other, other ≠ addr.toNat → Memory.read t.mem other = Memory.read s.mem other) ∧
    ((0x001 ≤ addr.toNat ∧ addr.toNat < 0x004) ∨ addr.toNat = 0x007 ∨ (0x018 ≤ addr.toNat ∧ addr.toNat < 0x040) ∨
        (0x0C0 ≤ addr.toNat ∧ addr.toNat < 0x100) ∨ 0x200 ≤ addr.toNat →
      transact (.write addr x) s = .next s)

/-- Rule R22: the bits of `STATUS`. -/
def Obligations.StatusBitsAreTheFourFlags : Prop :=
  ∀ s : State, hostRead s 0x001 = s.status ∧ s.status.getLsbD 0 = s.err ∧ s.status.getLsbD 1 = s.ctx256.valid ∧
    s.status.getLsbD 2 = s.ctx384.valid ∧ s.status.getLsbD 3 = s.ctx512.valid ∧
    ∀ k, 4 ≤ k → s.status.getLsbD k = false

/-- Rules R31 and R190: the reset event leaves the reset state (the host's side of the port apart), every cell of that
state holds zero, a run starts there, and nothing but reset leaves the halted state. -/
def Obligations.ResetZeroesEveryCell : Prop :=
  (∀ s : State, ∃ t, transact .reset s = .next t ∧ { t with host := State.reset.host } = State.reset) ∧
  (∀ s t : State, s.err = true → step s = .next t → t.err = false → s.host.pending.head? = some .reset) ∧
  Sys2Proof.core.reset = State.reset ∧
  State.reset.err = false ∧ State.reset.cause = 0x00 ∧ State.reset.fcmd = 0x00 ∧ State.reset.idx = 0x00 ∧
  State.reset.a = 0x00 ∧ State.reset.b = 0x00 ∧ State.reset.y = 0x00 ∧ State.reset.status = 0x00 ∧
  (∀ addr, Memory.read State.reset.mem addr = 0x00) ∧ ¬ isPermutation State.reset.boxIn ∧
  ∀ v : Variant, (State.reset.ctx v).valid = false ∧
    (State.reset.ctx v).inst.rk = Vector.replicate v.rounds (Vector.replicate v.bytes 0x00) ∧
    (State.reset.ctx v).inst.sb =
      Vector.replicate v.rounds (Vector.replicate v.rows (Vector.replicate 256 0x00)) ∧
    (State.reset.ctx v).inst.si =
      Vector.replicate v.rounds (Vector.replicate v.rows (Vector.replicate 256 0x00))

/-- Rules R66, R69 and R173: no step stops; every transaction has an outcome. With nothing pending the engine keeps all
state (rule R181's last sentence, log 6). -/
def Obligations.EveryStepAnswersANextState : Prop :=
  (∀ (i : Instr) (s : State), ∃ t, exec i s = .next t) ∧ (∀ s : State, ∃ t, step s = .next t) ∧
  ∀ s : State, s.host.pending = [] → step s = .next s

/-! ### What no command changes (rules R11 to R20, R25, R69) -/

/-- The last sentence of rule R69: no command writes `IDX`, `A`, `B`, `ROW`, `SK`, `KEY` or `DIN`, nor the host's side. -/
def Obligations.NoCommandWritesASource : Prop :=
  ∀ (i : Instr) (s t : State), exec i s = .next t →
    t.idx = s.idx ∧ t.a = s.a ∧ t.b = s.b ∧ t.host = s.host ∧
    ∀ addr, (0x008 ≤ addr ∧ addr < 0x018) ∨ (0x040 ≤ addr ∧ addr < 0x0C0) →
      Memory.read t.mem addr = Memory.read s.mem addr

/-- Rules R12, R15, R18, R19, R20: which commands write each result register. -/
def Obligations.ResultsAreWrittenOnlyByTheirCommands : Prop :=
  ∀ (i : Instr) (s t : State), exec i s = .next t →
    (t.y ≠ s.y → i ∈ [.gfAdd, .gfSub, .gfMul, .gfInv, .sbMix, .sbDig, .ksRc]) ∧
    (∀ addr, Memory.read t.mem addr ≠ Memory.read s.mem addr →
      ((0x018 ≤ addr ∧ addr < 0x020) ∧ i ∈ [.cfF, .cfFi]) ∨
      ((0x0C0 ≤ addr ∧ addr < 0x100) ∧
        ∃ v : Variant, addr < 0x0C0 + v.bytes ∧
          i ∈ ([.ciEnc v, .ciDec v, .dfFwd v, .dfInv v, .ksRk v] : List Instr)) ∨
      ((0x100 ≤ addr ∧ addr < 0x200) ∧ i ∈ [.sbBase, .sbRnd]) ∨
      ((0x200 ≤ addr ∧ addr < 0x300) ∧ i = .sbInvb))

/-- Rule R25: a slot is written only by its own `CI.NEW.v` and `CI.FREE.v`. -/
def Obligations.SlotsChangeOnlyByTheirOwnNewAndFree : Prop :=
  ∀ (i : Instr) (s t : State) (v : Variant), exec i s = .next t → t.ctx v ≠ s.ctx v →
    i = .ciNew v ∨ i = .ciFree v

/-- Rule R192: a valid slot stays valid until it is freed or the engine is reset. -/
def Obligations.ValidSlotStaysValidUntilFreedOrReset : Prop :=
  ∀ (s t : State) (v : Variant), (s.ctx v).valid = true → step s = .next t →
    (t.ctx v).valid = true ∨ s.host.pending.head? = some .reset ∨
    s.host.pending.head? = some (.write 0x000 (encode (.ciFree v)))

/-! ### Invariants (rules R23, R24, R26, R31, R159) -/

/-- The reset state meets the invariant (rules R26, R31). The canonical form of its memory is the model's (log 8). -/
def Obligations.ResetStateMeetsTheInvariant : Prop := State.reset.Inv

/-- Every step keeps the memory canonical and within the buffers of the window. The canonical form is the model's (log
8); that only buffer cells are stored is rule R41. -/
def Obligations.EveryStepKeepsTheMemoryCanonical : Prop :=
  ∀ s t : State, s.memoryOk → step s = .next t → t.memoryOk

/-- Rules R23, R24, R170: every step keeps `ERR`, `CAUSE` and `FCMD` in agreement. -/
def Obligations.EveryStepKeepsTheFaultRecordConsistent : Prop :=
  ∀ s t : State, s.faultRecordOk → step s = .next t → t.faultRecordOk

/-- Rule R26: every step keeps each valid slot the instance of some master key, and each invalid slot zero. -/
def Obligations.EveryStepKeepsSlotsConstructed : Prop :=
  ∀ s t : State, (∀ v, slotOk (s.ctx v)) → step s = .next t → ∀ v, slotOk (t.ctx v)

/-- Rule R26: in a valid slot every S-box and its paired inverse box are mutual bijections. -/
def Obligations.ValidSlotBoxesAreMutualInverses : Prop :=
  ∀ (v : Variant) (c : Ctx v), slotOk c → c.valid = true →
    ∀ (r : Fin v.rounds) (j : Fin v.rows),
      isPermutation c.inst.sb[r][j] ∧
      ∀ b, boxAt c.inst.si[r][j] (boxAt c.inst.sb[r][j] b) = b ∧
        boxAt c.inst.sb[r][j] (boxAt c.inst.si[r][j] b) = b

/-- Rule R198 in one direction: a host program that issues only legal commands other than `CI.ENC` and `CI.DEC` never
halts the engine. -/
def Obligations.ProgramsOfLegalCommandsNeverHalt : Prop :=
  ∀ s : State, s.running →
    (∀ c, .write 0x000 c ∈ s.host.pending →
      ∃ i, decode c = .ok i ∧ ∀ v, i ≠ .ciEnc v ∧ i ≠ .ciDec v) →
    ∀ k, safeFor k s

/-! ### Field arithmetic (40_field_arithmetic.md) -/

/-- Rule R84: `mul` is the XOR of the shifts its set bits select, and the product of the two polynomials over GF(2)
modulo `x^8 + RED`. -/
def Obligations.MulIsPolynomialMultiplicationModuloP : Prop :=
  let poly : Byte → Polynomial (ZMod 2) := fun b =>
    ∑ i ∈ Finset.range 8, if b.getLsbD i then Polynomial.X ^ i else 0
  ∀ (p : Params) (f g : Byte),
    gfMul p f g =
      ((List.range 8).filter fun i => g.getLsbD i).foldl (fun acc i => acc ^^^ (xtime p)^[i] f) 0x00 ∧
    (Polynomial.X ^ 8 + poly p.red) ∣ (poly f * poly g - poly (gfMul p f g))

/-- Rule R86 (b), (c), (d): the laws that hold for every `RED`. -/
def Obligations.FieldOperationsObeyTheRingLaws : Prop :=
  ∀ (p : Params) (f g h : Byte),
    gfAdd f g = gfAdd g f ∧ gfAdd (gfAdd f g) h = gfAdd f (gfAdd g h) ∧ gfAdd f 0x00 = f ∧ gfAdd f f = 0x00 ∧
    gfSub f g = gfAdd f g ∧ gfMul p f g = gfMul p g f ∧
    gfMul p (gfMul p f g) h = gfMul p f (gfMul p g h) ∧
    gfMul p f (g ^^^ h) = gfMul p f g ^^^ gfMul p f h ∧
    gfMul p f 0x00 = 0x00 ∧ gfMul p 0x00 f = 0x00 ∧ gfMul p f 0x01 = f ∧ gfMul p 0x01 f = f ∧
    gfMul p f 0x02 = xtime p f ∧ gfMul p 0x02 0x80 = p.red ∧ gfMul p 0x03 0x05 = 0x0F

/-- Rule R86 (e), (f): with `RED ∈ IRR` there are no zero divisors and `inv` is an involution that inverts. -/
def Obligations.IrreducibleReductionGivesAField : Prop :=
  ∀ p : Params, p.red ∈ irr →
    (∀ f g, gfMul p f g = 0x00 → f = 0x00 ∨ g = 0x00) ∧
    (∀ f, f ≠ 0x00 → gfMul p f (gfInv p f) = 0x01) ∧
    (∀ f, gfInv p (gfInv p f) = f) ∧
    Function.Bijective (gfInv p)

/-- Rule R5: `IRR` is exactly the set of reduction bytes for which every non-zero byte has exactly one inverse. -/
def Obligations.IrrIsExactlyTheFieldReductions : Prop :=
  ∀ p : Params, p.red ∈ irr ↔ ∀ f : Byte, f ≠ 0x00 → ∃! x : Byte, gfMul p f x = 0x01

/-- Rule R85: `inv` is the least solution of `mul(f, x) = 1`, 0x00 where there is none. -/
def Obligations.InverseIsTheLeastSolutionOrZero : Prop :=
  ∀ (p : Params) (f : Byte),
    (∀ x, gfMul p f x = 0x01 → gfMul p f (gfInv p f) = 0x01 ∧ (gfInv p f).toNat ≤ x.toNat) ∧
    ((∀ x, gfMul p f x ≠ 0x01) → gfInv p f = 0x00) ∧
    gfInv p 0x00 = 0x00 ∧ gfInv p 0x01 = 0x01 ∧
    (p.red ∈ irr → f ≠ 0x00 → ∃! x, gfMul p f x = 0x01)

/-- Rule R87: the tables of tabulated mode agree with direct mode on every input. That the
commands run direct mode is the model's reading of that rule (log 3). -/
def Obligations.TabulatedModeAgreesWithDirectMode : Prop :=
  ∀ (p : Params) (f g : Byte),
    mulTabulated p f g = gfMul p f g ∧ invTabulated p f = gfInv p f ∧
    boxAt (baseBoxTable p) f = bitMix p (gfInv p f)

/-- Rules R88 and R89: `GF.ADD` and `GF.SUB` write `A ^ B` to `Y` and change nothing else. -/
def Obligations.AddAndSubWriteTheXorOfTheOperands : Prop :=
  encode .gfAdd = 0x01 ∧ encode .gfSub = 0x02 ∧
  (∀ s : State, s.running →
    exec .gfAdd s = .next { s with y := s.a ^^^ s.b } ∧ exec .gfSub s = .next { s with y := s.a ^^^ s.b }) ∧
  (∀ f, gfAdd f f = 0x00 ∧ gfAdd f 0x00 = f ∧ gfSub 0x00 f = f) ∧
  gfAdd 0x57 0x83 = 0xD4 ∧ gfSub 0x57 0x83 = 0xD4

/-- Rule R90: `GF.MUL` writes `mul(A, B)` to `Y` and changes nothing else. -/
def Obligations.MulWritesTheProductOfTheOperands : Prop :=
  encode .gfMul = 0x03 ∧
  (∀ s : State, s.running → exec .gfMul s = .next { s with y := gfMul Config.params s.a s.b }) ∧
  (∀ (p : Params) (f g : Byte), gfMul p f 0x00 = 0x00 ∧ gfMul p 0x00 f = 0x00 ∧ gfMul p f 0x01 = f ∧
    gfMul p 0x01 f = f ∧ gfMul p f g = gfMul p g f ∧ gfMul p 0x02 0x80 = p.red ∧ gfMul p 0x03 0x05 = 0x0F) ∧
  ∀ d, gfMul { red := 0x1B, mixDir := d } 0x57 0x83 = 0xC1 ∧ gfMul { red := 0x1D, mixDir := d } 0x57 0x83 = 0x31

/-- Rule R91: `GF.INV` writes `inv(A)` to `Y` and changes nothing else; `B` is not read. -/
def Obligations.InvWritesTheInverseOfA : Prop :=
  encode .gfInv = 0x04 ∧
  (∀ s : State, s.running → exec .gfInv s = .next { s with y := gfInv Config.params s.a }) ∧
  (∀ p, gfInv p 0x00 = 0x00 ∧ gfInv p 0x01 = 0x01) ∧
  (∀ p : Params, p.red ∈ irr → gfInv p 0x02 = ((p.red ^^^ 0x01) >>> 1) ||| 0x80) ∧
  ∀ d, gfInv { red := 0x1B, mixDir := d } 0x53 = 0xCA ∧ gfInv { red := 0x1D, mixDir := d } 0x53 = 0x8C

/-! ### S-boxes (41_sbox.md) -/

/-- Rule R100: the output bits of `bit_mix` in both directions, and the values the rule prints. -/
def Obligations.BitMixXorsTheFourRotations : Prop :=
  (∀ (red b : Byte) (k : Nat), k < 8 →
    (bitMix { red := red, mixDir := .left } b).getLsbD k =
      (b.getLsbD k ^^ b.getLsbD ((k + 6) % 8) ^^ b.getLsbD ((k + 4) % 8) ^^ b.getLsbD ((k + 2) % 8) ^^
        b.getLsbD ((k + 1) % 8)) ∧
    (bitMix { red := red, mixDir := .right } b).getLsbD k =
      (b.getLsbD k ^^ b.getLsbD ((k + 2) % 8) ^^ b.getLsbD ((k + 4) % 8) ^^ b.getLsbD ((k + 6) % 8) ^^
        b.getLsbD ((k + 7) % 8))) ∧
  (∀ red, bitMix { red := red, mixDir := .left } 0x01 = 0xD5 ∧ bitMix { red := red, mixDir := .right } 0x01 = 0x57 ∧
    bitMix { red := red, mixDir := .left } 0x80 = 0xEA ∧ bitMix { red := red, mixDir := .right } 0x80 = 0xAB) ∧
  ∀ p, bitMix p 0x00 = 0x00 ∧ bitMix p 0xFF = 0xFF

/-- Rule R103: for every box, of the indices with one image the largest wins, and entries never hit stay 0x00. -/
def Obligations.InverseBoxTakesTheLastPreimage : Prop :=
  ∀ box : Box,
    (∀ i, (∀ k, boxAt box k = boxAt box i → k.toNat ≤ i.toNat) → boxAt (inverseBox box) (boxAt box i) = i) ∧
    (∀ j, (∀ i, boxAt box i ≠ j) → boxAt (inverseBox box) j = 0x00) ∧
    (isPermutation box → ∀ i, boxAt (inverseBox box) (boxAt box i) = i)

/-- Rule R105: linearity of `bit_mix` and bijectivity of `bit_mix`, the base box, the round boxes and their inverses. -/
def Obligations.GeneratedBoxesArePermutations : Prop :=
  ∀ p : Params, p.red ∈ irr →
    (∀ a b, bitMix p (a ^^^ b) = bitMix p a ^^^ bitMix p b) ∧ Function.Bijective (bitMix p) ∧
    isPermutation (baseBox p) ∧ (∀ mask, isPermutation (roundBox p mask)) ∧
    ∀ box : Box, isPermutation box →
      (∀ i, boxAt (inverseBox box) (boxAt box i) = i) ∧ (∀ j, boxAt box (boxAt (inverseBox box) j) = j) ∧
      inverseBox (inverseBox box) = box

/-- Rule R104: `digest` is the product of the eight clamped bytes, whatever their order, and never 0x00. -/
def Obligations.DigestMultipliesTheClampedBytes : Prop :=
  (∀ (p : Params) (k0 k1 k2 k3 k4 k5 k6 k7 : Byte),
    let clamp : Byte → Byte := fun b => if b = 0x00 then 0x01 else b
    digest p #v[k0, k1, k2, k3, k4, k5, k6, k7] =
      gfMul p (gfMul p (gfMul p (gfMul p (gfMul p (gfMul p (gfMul p (gfMul p 0x01 (clamp k0)) (clamp k1)) (clamp k2))
        (clamp k3)) (clamp k4)) (clamp k5)) (clamp k6)) (clamp k7)) ∧
  (∀ (p : Params) (seg seg' : Row), seg.toList.Perm seg'.toList → digest p seg = digest p seg') ∧
  (∀ (p : Params) (seg : Row), p.red ∈ irr → digest p seg ≠ 0x00) ∧
  ∀ p, digest p (Vector.replicate 8 0x00) = 0x01 ∧ digest p (Vector.replicate 8 0x02) = p.red

/-- Rule R106: `SB.MIX` writes `bit_mix(A)` to `Y` and changes nothing else. -/
def Obligations.MixWritesBitMixOfA : Prop :=
  encode .sbMix = 0x08 ∧
  (∀ s : State, s.running → exec .sbMix s = .next { s with y := bitMix Config.params s.a }) ∧
  (∀ p, bitMix p 0x00 = 0x00 ∧ bitMix p 0xFF = 0xFF) ∧
  ∀ red, bitMix { red := red, mixDir := .left } 0x01 = 0xD5 ∧ bitMix { red := red, mixDir := .right } 0x01 = 0x57

/-- Rules R107 and R108, with the boxes of rules R101 and R102: `SB.BASE` and `SB.RND` store their box to `BOXA` and
change nothing else. -/
def Obligations.BaseAndRoundBoxesAreStoredToBoxA : Prop :=
  encode .sbBase = 0x09 ∧ encode .sbRnd = 0x0A ∧
  (∀ s : State, s.running →
    (∃ t, exec .sbBase s = .next t ∧ storesExactly s t .boxa 256 (baseBox Config.params)) ∧
    ∃ t, exec .sbRnd s = .next t ∧ storesExactly s t .boxa 256 (roundBox Config.params s.a)) ∧
  (∀ (p : Params) (mask i : Byte), boxAt (baseBox p) i = bitMix p (gfInv p i) ∧
    boxAt (roundBox p mask) i = boxAt (baseBox p) i ^^^ mask ∧ roundBox p 0x00 = baseBox p ∧
    boxAt (baseBox p) 0x00 = 0x00 ∧ boxAt (roundBox p mask) 0x00 = mask ∧ boxAt (baseBox p) 0x01 = bitMix p 0x01) ∧
  ∀ red, boxAt (baseBox { red := red, mixDir := .left }) 0x01 = 0xD5 ∧
    boxAt (roundBox { red := red, mixDir := .left } 0xB3) 0x00 = 0xB3 ∧
    boxAt (roundBox { red := red, mixDir := .left } 0xB3) 0x01 = 0x66

/-- Rule R109: `SB.INVB` stores the inverse of `BOXA` to `BOXB` and changes nothing else. -/
def Obligations.InverseBoxIsStoredToBoxB : Prop :=
  encode .sbInvb = 0x0B ∧
  (∀ s : State, s.running →
    ∃ t, exec .sbInvb s = .next t ∧ storesExactly s t .boxb 256 (inverseBox (Memory.readBytes s.mem 0x100 256))) ∧
  (∀ j, boxAt (inverseBox (Vector.replicate 256 0x00)) j = if j = 0x00 then 0xFF else 0x00) ∧
  (∀ box : Box, (∀ i, boxAt box i = i) → inverseBox box = box) ∧
  ∀ red, red ∈ irr → boxAt (inverseBox (baseBox { red := red, mixDir := .left })) 0x00 = 0x00 ∧
    boxAt (inverseBox (baseBox { red := red, mixDir := .left })) 0xD5 = 0x01

/-- Rule R110: `SB.DIG` writes `digest(SK)` to `Y` and changes nothing else. -/
def Obligations.DigestOfSubkeyIsWrittenToY : Prop :=
  encode .sbDig = 0x0C ∧
  (∀ s : State, s.running →
    exec .sbDig s = .next { s with y := digest Config.params (Memory.readBytes s.mem 0x010 8) }) ∧
  (∀ p, digest p (Vector.replicate 8 0x00) = 0x01 ∧ digest p (Vector.replicate 8 0x01) = 0x01 ∧
    digest p (Vector.replicate 8 0x02) = p.red) ∧
  ∀ (p : Params) (i : Fin 8) (b : Byte), b ≠ 0x00 → digest p ((Vector.replicate 8 0x00).set i b) = b

/-! ### Key schedule (42_key_schedule.md) -/

/-- Rule R120: `round_constant(i)` is `x^(i+3) mod P`, and its first values. -/
def Obligations.RoundConstantIsAPowerOfX : Prop :=
  let poly : Byte → Polynomial (ZMod 2) := fun b =>
    ∑ i ∈ Finset.range 8, if b.getLsbD i then Polynomial.X ^ i else 0
  ∀ p : Params,
    (∀ i, roundConstant p (i + 1) = gfMul p (roundConstant p i) 0x02) ∧
    (∀ i, (Polynomial.X ^ 8 + poly p.red) ∣ (Polynomial.X ^ (i + 3) - poly (roundConstant p i))) ∧
    roundConstant p 0 = 0x08 ∧ roundConstant p 1 = 0x10 ∧ roundConstant p 2 = 0x20 ∧ roundConstant p 3 = 0x40 ∧
    roundConstant p 4 = 0x80 ∧ roundConstant p 5 = p.red ∧ roundConstant p 6 = xtime p p.red

/-- Rules R121 and R122: the recurrence of `round_key`, its closed form, and the chain of round keys. -/
def Obligations.RoundKeyFollowsItsRecurrence : Prop :=
  ∀ (p : Params) (n : Nat) (prev : Vector Byte n) (r : Nat),
    (∀ h : 0 < n, (roundKey p prev r)[0] = gfInv p (rotl8 prev[0] 4) ^^^ roundConstant p r) ∧
    (∀ i (h : i + 1 < n),
      (roundKey p prev r)[i + 1] = gfInv p (rotl8 prev[i + 1] 4) ^^^ (roundKey p prev r)[i]) ∧
    (∀ i (h : i < n), (roundKey p prev r)[i] =
      (prev.toList.take (i + 1)).foldl (fun acc b => acc ^^^ gfInv p (rotl8 b 4)) (roundConstant p r)) ∧
    (∀ rounds (h : 0 < rounds), (expand p prev rounds)[0] = roundKey p prev 0) ∧
    ∀ rounds k (h : k + 1 < rounds),
      (expand p prev rounds)[k + 1] = roundKey p ((expand p prev rounds)[k]) (k + 1)

/-- Rule R123: `KS.RC` writes `round_constant(IDX)` to `Y` and changes nothing else. -/
def Obligations.RoundConstantOfIdxIsWrittenToY : Prop :=
  encode .ksRc = 0x10 ∧
  (∀ s : State, s.running → exec .ksRc s = .next { s with y := roundConstant Config.params s.idx.toNat }) ∧
  (∀ p, roundConstant p 0 = 0x08 ∧ roundConstant p 2 = 0x20 ∧ roundConstant p 4 = 0x80 ∧
    roundConstant p 5 = p.red) ∧
  let poly : Byte → Polynomial (ZMod 2) := fun b =>
    ∑ i ∈ Finset.range 8, if b.getLsbD i then Polynomial.X ^ i else 0
  ∀ p : Params, (Polynomial.X ^ 8 + poly p.red) ∣ (Polynomial.X ^ 258 - poly (roundConstant p 255))

/-- Rule R124: `KS.RK.v` stores `round_key(KEY[0..Bv], IDX)` to `DOUT[0..Bv]` and changes nothing else. -/
def Obligations.RoundKeyIsStoredToDout : Prop :=
  encode .ksRk256 = 0x11 ∧ encode .ksRk384 = 0x51 ∧ encode .ksRk512 = 0x91 ∧
  (∀ (s : State) (v : Variant), s.running →
    ∃ t, exec (.ksRk v) s = .next t ∧
      storesExactly s t .dout v.bytes
        (roundKey Config.params (Memory.readBytes s.mem 0x040 v.bytes) s.idx.toNat)) ∧
  (∀ (p : Params) (v : Variant), roundKey p (Vector.replicate v.bytes 0x00) 0 = Vector.replicate v.bytes 0x08) ∧
  ∀ (p : Params) (m : Memory) (v : Variant) (r : Nat),
    (roundKey p (Memory.readBytes m 0x040 v.bytes) r).toList.take 32 =
      (roundKey p (Memory.readBytes m 0x040 32) r).toList

/-! ### Diffusion (43_diffusion.md) -/

/-- Rules R130 and R131: the byte of row `r` and column `c` moves to row `(r + c mod R) mod R` of the same column, and
under the inverse to row `(r + R − c mod R) mod R`. -/
def Obligations.DiffusionMovesEachByteAlongItsColumn : Prop :=
  ∀ (v : Variant) (blk : Block v) (r c down up : Nat) (hr : r < v.rows) (hc : c < 8),
    down = (r + c % v.rows) % v.rows → up = (r + v.rows - c % v.rows) % v.rows →
    ∃ (hdown : down < v.rows) (hup : up < v.rows),
      (toBlock (diffuse (toMatrix blk)))[8 * down + c]'(by omega) = blk[8 * r + c]'(by
        simp only [Variant.bytes]; omega) ∧
      (toBlock (diffuseInv (toMatrix blk)))[8 * up + c]'(by omega) = blk[8 * r + c]'(by
        simp only [Variant.bytes]; omega)

/-- Rule R132: the two rotations undo each other, and the three-reversal technique is the forward one. -/
def Obligations.DiffusionAndItsInverseUndoEachOther : Prop :=
  (∀ (R : Nat) (blk : Vector Byte (8 * R)),
    toBlock (diffuseInv (toMatrix (toBlock (diffuse (toMatrix blk))))) = blk ∧
    toBlock (diffuse (toMatrix (toBlock (diffuseInv (toMatrix blk))))) = blk) ∧
  ∀ (R : Nat) (m : Matrix R) (c : Fin 8), 0 < R →
    ((diffuse m).map fun row => row[c]).toList =
      ((((m.map fun row => row[c]).toList.take (R - c.val % R)).reverse ++
        ((m.map fun row => row[c]).toList.drop (R - c.val % R)).reverse).reverse)

/-- Rules R133 and R134: `DF.FWD.v` and `DF.INV.v` store the rotated block to `DOUT[0..Bv]` and change nothing else. -/
def Obligations.RotatedBlockIsStoredToDout : Prop :=
  encode .dfFwd256 = 0x18 ∧ encode .dfFwd384 = 0x58 ∧ encode .dfFwd512 = 0x98 ∧
  encode .dfInv256 = 0x19 ∧ encode .dfInv384 = 0x59 ∧ encode .dfInv512 = 0x99 ∧
  (∀ (s : State) (v : Variant), s.running →
    (∃ t, exec (.dfFwd v) s = .next t ∧ storesExactly s t .dout v.bytes
      (toBlock (diffuse (toMatrix (Memory.readBytes s.mem 0x080 v.bytes))))) ∧
    ∃ t, exec (.dfInv v) s = .next t ∧ storesExactly s t .dout v.bytes
      (toBlock (diffuseInv (toMatrix (Memory.readBytes s.mem 0x080 v.bytes))))) ∧
  (∀ (v : Variant) (b : Byte),
    toBlock (diffuse (toMatrix (Vector.replicate v.bytes b))) = Vector.replicate v.bytes b ∧
    toBlock (diffuseInv (toMatrix (Vector.replicate v.bytes b))) = Vector.replicate v.bytes b) ∧
  (∀ (v : Variant) (blk : Block v) (q : Fin v.bytes),
    ((q.val % 8) % v.rows = 0 → (toBlock (diffuse (toMatrix blk)))[q] = blk[q] ∧
      (toBlock (diffuseInv (toMatrix blk)))[q] = blk[q]) ∧
    (2 * ((q.val % 8) % v.rows) = v.rows →
      (toBlock (diffuse (toMatrix blk)))[q] = (toBlock (diffuseInv (toMatrix blk)))[q])) ∧
  let positions : Block .v256 := Vector.ofFn fun i => BitVec.ofNat 8 i.val
  (toBlock (diffuse (toMatrix positions))).toList.take 8 = [0x00, 0x19, 0x12, 0x0B, 0x04, 0x1D, 0x16, 0x0F] ∧
  (toBlock (diffuseInv (toMatrix positions))).toList.take 8 = [0x00, 0x09, 0x12, 0x1B, 0x04, 0x0D, 0x16, 0x1F]

/-! ### Confusion (44_confusion.md) -/

/-- Rule R140: the output of `func_f` written out from its final bytes. -/
def Obligations.FuncFFollowsItsEightSteps : Prop :=
  ∀ p k : Row,
    let p1 := rotl8 (p[1] ^^^ p[0] ^^^ p[2]) 3
    let p6 := rotr8 (p[6] ^^^ p[5] ^^^ p[7]) 2
    let p2 := rotl8 (p[2] ^^^ p[4]) 2
    let p4 := rotr8 p[4] 4 ^^^ p1
    let p3 := p[3] ^^^ p4 ^^^ p[7]
    let p5 := rotl8 (p[5] ^^^ p[3] ^^^ p6) 1
    let p0 := p[0] ^^^ p2
    let p7 := p[7] ^^^ p5
    funcF p k =
      #v[p4 ^^^ k[4], p5 ^^^ k[5], p0 ^^^ k[0], p1 ^^^ k[1], p6 ^^^ k[6], p7 ^^^ k[7], p2 ^^^ k[2], p3 ^^^ k[3]]

/-- Rule R142: `func_f` and `func_f_inv` undo each other for every row and key, and `func_f` is linear over GF(2) up to
the key. -/
def Obligations.FuncFIsAnInvertibleAffineMap : Prop :=
  let zero : Row := Vector.replicate 8 0x00
  let xor : Row → Row → Row := fun a b => Vector.zipWith (· ^^^ ·) a b
  (∀ p k : Row, funcFInv (funcF p k) k = p ∧ funcF (funcFInv p k) k = p) ∧
  (∀ p k : Row, funcF p k = xor (funcF p zero) (funcF zero k)) ∧
  (∀ p p' : Row, funcF (xor p p') zero = xor (funcF p zero) (funcF p' zero)) ∧
  (∀ k : Row, funcF zero k = #v[k[4], k[5], k[0], k[1], k[6], k[7], k[2], k[3]]) ∧ funcF zero zero = zero

/-- Rules R143 and R144: `CF.F` and `CF.FI` store the row result to `ROWO` and change nothing else. -/
def Obligations.ConfusedRowIsStoredToRowo : Prop :=
  encode .cfF = 0x20 ∧ encode .cfFi = 0x21 ∧
  (∀ s : State, s.running →
    (∃ t, exec .cfF s = .next t ∧ storesExactly s t .rowo 8
      (funcF (Memory.readBytes s.mem 0x008 8) (Memory.readBytes s.mem 0x010 8))) ∧
    ∃ t, exec .cfFi s = .next t ∧ storesExactly s t .rowo 8
      (funcFInv (Memory.readBytes s.mem 0x008 8) (Memory.readBytes s.mem 0x010 8))) ∧
  (∀ k : Row, funcF (Vector.replicate 8 0x00) k = #v[k[4], k[5], k[0], k[1], k[6], k[7], k[2], k[3]]) ∧
  funcF (Vector.replicate 8 0x00) (Vector.replicate 8 0x00) = Vector.replicate 8 0x00 ∧
  funcFInv (Vector.replicate 8 0x00) (Vector.replicate 8 0x00) = Vector.replicate 8 0x00 ∧
  funcF #v[0x01, 0x23, 0x45, 0x67, 0x89, 0xAB, 0xCD, 0xEF] #v[0x10, 0x32, 0x54, 0x76, 0x98, 0xBA, 0xDC, 0xFE] =
    #v[0x3B, 0xE7, 0x22, 0x09, 0xBE, 0x4C, 0x67, 0x5D] ∧
  funcFInv #v[0x3B, 0xE7, 0x22, 0x09, 0xBE, 0x4C, 0x67, 0x5D] #v[0x10, 0x32, 0x54, 0x76, 0x98, 0xBA, 0xDC, 0xFE] =
    #v[0x01, 0x23, 0x45, 0x67, 0x89, 0xAB, 0xCD, 0xEF]

/-! ### Orchestrator (45_orchestrator.md) -/

/-- Rule R151: what `construct` builds, box by box. -/
def Obligations.ConstructDerivesKeysAndBoxes : Prop :=
  ∀ (p : Params) (v : Variant) (key : Block v) (r : Fin v.rounds) (s : Fin v.rows),
    (construct p v key).rk = expand p key v.rounds ∧
    (construct p v key).sb[r][s] =
      roundBox p (digest p (Vector.ofFn fun c : Fin 8 =>
        ((construct p v key).rk[r])[8 * s.val + c.val]'(by have := s.isLt; simp only [Variant.bytes]; omega))) ∧
    (construct p v key).si[r][s] = inverseBox (construct p v key).sb[r][s]

/-- Rules R150 and R152 to R154: encryption is rounds 0 to `N − 1` forward, decryption rounds `N − 1` to 0 backward,
each round as rule R152 composes it. -/
def Obligations.CipherRunsItsRoundsInOrder : Prop :=
  ∀ (v : Variant) (inst : Inst v) (blk : Block v) (m : Nat → Matrix v.rows),
    (m 0 = toMatrix blk →
      (∀ r : Fin v.rounds, m (r.val + 1) = Vector.ofFn fun j =>
        funcF (Vector.ofFn fun c => boxAt inst.sb[r][j] (diffuse (m r.val))[j][c]) (toMatrix inst.rk[r])[j]) →
      encrypt inst blk = toBlock (m v.rounds)) ∧
    (m v.rounds = toMatrix blk →
      (∀ r : Fin v.rounds, m r.val = diffuseInv (Vector.ofFn fun j => Vector.ofFn fun c =>
        boxAt inst.si[r][j] (funcFInv (m (r.val + 1))[j] (toMatrix inst.rk[r])[j])[c])) →
      decrypt inst blk = toBlock (m 0))

/-- Rule R155 (a): decryption undoes encryption and encryption undoes decryption, for every key, block and variant. -/
def Obligations.DecryptUndoesEncrypt : Prop :=
  ∀ (p : Params) (v : Variant) (key blk : Block v), p.red ∈ irr →
    decrypt (construct p v key) (encrypt (construct p v key) blk) = blk ∧
    encrypt (construct p v key) (decrypt (construct p v key) blk) = blk

/-- Rule R155 (a) on the machine: the program of rule R160 (construct, encrypt, copy the result back, decrypt), from any
state that is not halted and for every variant, ends with the original block in `DOUT[0..Bv]`. How the host's copy runs,
each byte passing through `host.readData`, is the model's form of rule R68 (DESIGN CHOICE, log 13). -/
def Obligations.ConstructEncryptDecryptRestoresTheBlock : Prop :=
  ∀ (s : State) (v : Variant), s.running →
    ∃ t, runProgram [.cmd (.ciNew v), .cmd (.ciEnc v), .copy .din .dout v.bytes, .cmd (.ciDec v)] s = .next t ∧
      t.running ∧ Memory.readBytes t.mem 0x0C0 v.bytes = Memory.readBytes s.mem 0x080 v.bytes

/-- Rule R156: `CI.NEW.v` makes its slot the valid instance of `KEY[0..Bv]` and changes nothing else. -/
def Obligations.NewConstructsItsSlot : Prop :=
  encode .ciNew256 = 0x28 ∧ encode .ciNew384 = 0x68 ∧ encode .ciNew512 = 0xA8 ∧
  (∀ (s : State) (v : Variant), s.running →
    ∃ t, exec (.ciNew v) s = .next t ∧ (t.ctx v).valid = true ∧
      (t.ctx v).inst = construct Config.params v (Memory.readBytes s.mem 0x040 v.bytes) ∧
      (∀ w, w ≠ v → t.ctx w = s.ctx w) ∧
      t = { s with ctx256 := t.ctx256, ctx384 := t.ctx384, ctx512 := t.ctx512 } ∧
      t.status.getLsbD (validFlagBit v) = true) ∧
  ∃ t, exec .ciNew256 State.reset = .next t ∧ t.status = 0x02 ∧
    t.ctx256.inst.rk[0] = Vector.replicate 32 0x08

/-- Rules R157 and R158 on a valid slot: `CI.ENC.v` and `CI.DEC.v` store their block to `DOUT[0..Bv]` and change nothing
else. -/
def Obligations.CipherBlockIsStoredToDout : Prop :=
  ∀ (s : State) (v : Variant), s.running → (s.ctx v).valid = true →
    (∃ t, exec (.ciEnc v) s = .next t ∧ storesExactly s t .dout v.bytes
      (encrypt (s.ctx v).inst (Memory.readBytes s.mem 0x080 v.bytes))) ∧
    ∃ t, exec (.ciDec v) s = .next t ∧ storesExactly s t .dout v.bytes
      (decrypt (s.ctx v).inst (Memory.readBytes s.mem 0x080 v.bytes))

/-- Rules R155 (b), R157 and R158: the result depends on the slot and the block alone, and repeating the command gives
it again. -/
def Obligations.CipherResultDependsOnSlotAndBlockAlone : Prop :=
  ∀ (i : Instr) (s u : State) (v : Variant), i = .ciEnc v ∨ i = .ciDec v → s.running → u.running →
    (s.ctx v).valid = true → u.ctx v = s.ctx v →
    Memory.readBytes u.mem 0x080 v.bytes = Memory.readBytes s.mem 0x080 v.bytes →
    ∃ t w, exec i s = .next t ∧ exec i u = .next w ∧
      Memory.readBytes t.mem 0x0C0 v.bytes = Memory.readBytes w.mem 0x0C0 v.bytes ∧
      ∃ t', exec i t = .next t' ∧ ∀ addr, Memory.read t'.mem addr = Memory.read t.mem addr

/-- Rule R159: `CI.FREE.v` makes its slot invalid and zero and changes nothing else; after it the cipher commands of the
variant fault. -/
def Obligations.FreeClearsItsSlot : Prop :=
  encode .ciFree256 = 0x2B ∧ encode .ciFree384 = 0x6B ∧ encode .ciFree512 = 0xAB ∧
  (∀ (s : State) (v : Variant), s.running →
    ∃ t, exec (.ciFree v) s = .next t ∧ (t.ctx v).valid = false ∧ (t.ctx v).inst = Inst.zero v ∧
      (∀ w, w ≠ v → t.ctx w = s.ctx w) ∧
      t = { s with ctx256 := t.ctx256, ctx384 := t.ctx384, ctx512 := t.ctx512 } ∧
      t.status.getLsbD (validFlagBit v) = false ∧
      ((s.ctx v).valid = false → slotOk (s.ctx v) → t = s) ∧
      (∃ u, exec (.ciEnc v) t = .next u ∧ u.err = true ∧ u.cause = 0x02) ∧
      ∃ u, exec (.ciDec v) t = .next u ∧ u.err = true ∧ u.cause = 0x02) ∧
  ∃ t u, exec .ciNew256 State.reset = .next t ∧ exec .ciFree256 t = .next u ∧ u.status = 0x00

/-! ### Host programs (30_encoding.md section 6) -/

/-- Rules R67 and R68: `FILL` of a RW buffer makes the matching `EXPECT` hold, and `COPY` moves a buffer's bytes. How
the statements run as host transactions is the model's form of these rules (DESIGN CHOICE, log 13). -/
def Obligations.FillAndCopyMoveTheBytesTheyName : Prop :=
  (∀ (s : State) (which : Buf) (bytes : List Byte), which ∈ [.row, .sk, .key, .din, .boxa] →
    bytes.length ≤ which.size →
    ∃ t, (Stmt.fill which bytes).run s = .next t ∧ t = { s with mem := t.mem } ∧
      (Stmt.expect which bytes).holds t = true ∧
      ∀ addr, addr < which.base ∨ which.base + bytes.length ≤ addr →
        Memory.read t.mem addr = Memory.read s.mem addr) ∧
  ∀ (s : State) (dst src : Buf) (n : Nat), dst ∈ [.row, .sk, .key, .din, .boxa] → dst ≠ src →
    n ≤ dst.size → n ≤ src.size →
    ∃ t, (Stmt.copy dst src n).run s = .next t ∧
      t = { s with mem := t.mem, host := { s.host with readData := t.host.readData } } ∧
      (∀ i, i < n → Memory.read t.mem (dst.base + i) = Memory.read s.mem (src.base + i)) ∧
      ∀ addr, addr < dst.base ∨ dst.base + n ≤ addr → Memory.read t.mem addr = Memory.read s.mem addr
end

