-- ==== Sys2Proof/Laws/Memory.lean ====
section
/-! SUPPORT. The laws of memory: read after write, writes leave other places alone, and every memory operation keeps the
canonical form. -/

namespace Sys2Proof.Machine

@[simp] theorem Memory.read_nil (addr : Nat) : Memory.read [] addr = Memory.unlisted := rfl

theorem Memory.read_cons (c : Host.Cell) (m : Memory) (addr : Nat) :
    Memory.read (c :: m) addr = if addr = c.1 then c.2 else Memory.read m addr := rfl

/-- Reading past an entry put in by address. -/
theorem Memory.read_insert (c : Host.Cell) (m : Memory) (h : ∀ d ∈ m, d.1 ≠ c.1) (addr : Nat) :
    Memory.read (Memory.insert c m) addr = if addr = c.1 then c.2 else Memory.read m addr := by
  induction m with
  | nil => rfl
  | cons d rest ih =>
    have hd : d.1 ≠ c.1 := h d (by simp)
    have ih' := ih fun e he => h e (by simp [he])
    simp only [Memory.insert]
    split
    · rfl
    · simp only [Memory.read_cons, ih']
      by_cases h1 : addr = d.1 <;> by_cases h2 : addr = c.1 <;> simp_all

theorem Memory.read_filter (m : Memory) (gone addr : Nat) :
    Memory.read (m.filter fun c => c.1 != gone) addr = if addr = gone then Memory.unlisted else Memory.read m addr := by
  induction m with
  | nil => simp
  | cons c rest ih =>
    by_cases h : c.1 = gone
    · simp only [List.filter_cons, h, bne_self_eq_false, Bool.false_eq_true, if_false, ih, Memory.read_cons]
      split <;> rfl
    · simp only [List.filter_cons, bne_iff_ne, ne_eq, h, not_false_eq_true, if_true, Memory.read_cons, ih]
      by_cases h1 : addr = c.1
      · simp [h1, h]
      · simp [h1]

/-- What one write does to every read: the written address reads the byte, every other address reads as before. -/
theorem Memory.read_write (addr : Nat) (v : Byte) (m : Memory) (at_ : Nat) :
    Memory.read (Memory.write addr v m) at_ = if at_ = addr then v else Memory.read m at_ := by
  unfold Memory.write
  split
  · next h => rw [Memory.read_filter, h]
  · rw [Memory.read_insert _ _ (by simp)]
    by_cases h : at_ = addr <;> simp [h, Memory.read_filter]

@[simp] theorem Memory.read_write_same (addr : Nat) (v : Byte) (m : Memory) :
    Memory.read (Memory.write addr v m) addr = v := by simp [Memory.read_write]

theorem Memory.read_write_other {addr at_ : Nat} (v : Byte) (m : Memory) (h : at_ ≠ addr) :
    Memory.read (Memory.write addr v m) at_ = Memory.read m at_ := by simp [Memory.read_write, h]

/-- Consecutive writes leave every address outside them alone. -/
theorem Memory.read_writeBytes_outside (vs : List Byte) (addr : Nat) (m : Memory) (at_ : Nat)
    (h : at_ < addr ∨ addr + vs.length ≤ at_) :
    Memory.read (Memory.writeBytes addr vs m) at_ = Memory.read m at_ := by
  induction vs generalizing addr m with
  | nil => rfl
  | cons v vs ih =>
    simp only [List.length_cons] at h
    rw [Memory.writeBytes, ih _ _ (by omega), Memory.read_write_other _ _ (by omega)]

/-- Consecutive writes are read back byte for byte. -/
theorem Memory.read_writeBytes_inside (vs : List Byte) (addr : Nat) (m : Memory) (i : Nat) (h : i < vs.length) :
    Memory.read (Memory.writeBytes addr vs m) (addr + i) = vs[i] := by
  induction vs generalizing addr m i with
  | nil => simp at h
  | cons v vs ih =>
    cases i with
    | zero => rw [Memory.writeBytes, Memory.read_writeBytes_outside _ _ _ _ (by omega)]; simp
    | succ i =>
      rw [Memory.writeBytes, show addr + (i + 1) = addr + 1 + i by omega, ih]
      · simp
      · simpa using h

@[simp] theorem Memory.readBytes_getElem (m : Memory) (addr n i : Nat) (h : i < n) :
    (Memory.readBytes m addr n)[i] = Memory.read m (addr + i) := by simp [Memory.readBytes]

/-- Reading back what was just written. -/
theorem Memory.readBytes_writeBytes (addr n : Nat) (bytes : Vector Byte n) (m : Memory) :
    Memory.readBytes (Memory.writeBytes addr bytes.toList m) addr n = bytes := by
  ext i h
  rw [Memory.readBytes_getElem, Memory.read_writeBytes_inside _ _ _ _ (by simpa using h)]
  simp

theorem Memory.mem_insert (c d : Host.Cell) (m : Memory) : d ∈ Memory.insert c m ↔ d = c ∨ d ∈ m := by
  induction m with
  | nil => simp [Memory.insert]
  | cons e rest ih =>
    simp only [Memory.insert]
    split
    · simp
    · simp only [List.mem_cons, ih]
      tauto

theorem Memory.pairwise_insert (c : Host.Cell) (m : Memory) (hm : m.Pairwise fun d e => d.1 < e.1)
    (h : ∀ d ∈ m, d.1 ≠ c.1) : (Memory.insert c m).Pairwise fun d e => d.1 < e.1 := by
  induction m with
  | nil => simp [Memory.insert]
  | cons d rest ih =>
    have hd : d.1 ≠ c.1 := h d (by simp)
    rw [List.pairwise_cons] at hm
    simp only [Memory.insert]
    split
    · next hlt =>
      refine List.pairwise_cons.2 ⟨fun e he => ?_, List.pairwise_cons.2 hm⟩
      rcases List.mem_cons.1 he with rfl | he
      · exact hlt
      · exact lt_trans hlt (hm.1 e he)
    · next hge =>
      refine List.pairwise_cons.2 ⟨fun e he => ?_, ih hm.2 fun e he => h e (by simp [he])⟩
      rcases (Memory.mem_insert c e rest).1 he with rfl | he
      · omega
      · exact hm.1 e he

/-- Every entry of a memory after a write is an old entry or the written address's. -/
theorem Memory.mem_write {addr : Nat} {v : Byte} {m : Memory} {c : Host.Cell} (h : c ∈ Memory.write addr v m) :
    c ∈ m ∨ (c.1 = addr ∧ v ≠ Memory.unlisted) := by
  unfold Memory.write at h
  split at h
  · exact .inl (List.mem_of_mem_filter h)
  · next hv =>
    rcases (Memory.mem_insert _ _ _).1 h with rfl | h
    · exact .inr ⟨rfl, hv⟩
    · exact .inl (List.mem_of_mem_filter h)

/-- A write keeps the canonical form. -/
theorem Memory.wf_write (addr : Nat) (v : Byte) {m : Memory} (hm : Memory.wf m) :
    Memory.wf (Memory.write addr v m) := by
  have hf : Memory.wf (m.filter fun c => c.1 != addr) :=
    ⟨hm.1.filter _, fun c hc => hm.2 c (List.mem_of_mem_filter hc)⟩
  unfold Memory.write
  split
  · exact hf
  · next hv =>
    refine ⟨Memory.pairwise_insert _ _ hf.1 (by simp), fun c hc => ?_⟩
    rcases (Memory.mem_insert _ _ _).1 hc with rfl | hc
    · exact hv
    · exact hf.2 c hc

/-- Consecutive writes keep the canonical form. -/
theorem Memory.wf_writeBytes (vs : List Byte) (addr : Nat) {m : Memory} (hm : Memory.wf m) :
    Memory.wf (Memory.writeBytes addr vs m) := by
  induction vs generalizing addr m with
  | nil => exact hm
  | cons v vs ih => exact ih (addr + 1) (Memory.wf_write addr v hm)

/-- Every entry of a memory after consecutive writes is an old entry or lies in the range written. -/
theorem Memory.mem_writeBytes {vs : List Byte} {addr : Nat} {m : Memory} {c : Host.Cell}
    (h : c ∈ Memory.writeBytes addr vs m) : c ∈ m ∨ (addr ≤ c.1 ∧ c.1 < addr + vs.length) := by
  induction vs generalizing addr m with
  | nil => exact .inl h
  | cons v vs ih =>
    rcases ih h with h | h
    · rcases Memory.mem_write h with h | h
      · exact .inl h
      · exact .inr ⟨by omega, by simp; omega⟩
    · exact .inr ⟨by omega, by simp; omega⟩

/-- The memory of the reset state has the canonical form. -/
theorem State.reset_mem_wf : Memory.wf State.reset.mem := ⟨List.Pairwise.nil, by simp [State.reset]⟩

end Sys2Proof.Machine
end

