-- ==== Sys2Proof/Laws/State.lean ====
section
/-! SUPPORT. One lemma per field per update of the state, so that no proof unfolds a record update. -/

namespace Sys2Proof.Machine

section setYFields

@[simp] theorem State.setY_err (s : State) (v : Byte) : (s.setY v).err = s.err := rfl
@[simp] theorem State.setY_cause (s : State) (v : Byte) : (s.setY v).cause = s.cause := rfl
@[simp] theorem State.setY_fcmd (s : State) (v : Byte) : (s.setY v).fcmd = s.fcmd := rfl
@[simp] theorem State.setY_idx (s : State) (v : Byte) : (s.setY v).idx = s.idx := rfl
@[simp] theorem State.setY_a (s : State) (v : Byte) : (s.setY v).a = s.a := rfl
@[simp] theorem State.setY_b (s : State) (v : Byte) : (s.setY v).b = s.b := rfl
@[simp] theorem State.setY_y (s : State) (v : Byte) : (s.setY v).y = v := rfl
@[simp] theorem State.setY_mem (s : State) (v : Byte) : (s.setY v).mem = s.mem := rfl
@[simp] theorem State.setY_ctx256 (s : State) (v : Byte) : (s.setY v).ctx256 = s.ctx256 := rfl
@[simp] theorem State.setY_ctx384 (s : State) (v : Byte) : (s.setY v).ctx384 = s.ctx384 := rfl
@[simp] theorem State.setY_ctx512 (s : State) (v : Byte) : (s.setY v).ctx512 = s.ctx512 := rfl
@[simp] theorem State.setY_host (s : State) (v : Byte) : (s.setY v).host = s.host := rfl

end setYFields

section setBufFields

@[simp] theorem State.setBuf_err (s : State) (which : Buf) (n : Nat) (bytes : Vector Byte n) : (s.setBuf which n bytes).err = s.err := rfl
@[simp] theorem State.setBuf_cause (s : State) (which : Buf) (n : Nat) (bytes : Vector Byte n) : (s.setBuf which n bytes).cause = s.cause := rfl
@[simp] theorem State.setBuf_fcmd (s : State) (which : Buf) (n : Nat) (bytes : Vector Byte n) : (s.setBuf which n bytes).fcmd = s.fcmd := rfl
@[simp] theorem State.setBuf_idx (s : State) (which : Buf) (n : Nat) (bytes : Vector Byte n) : (s.setBuf which n bytes).idx = s.idx := rfl
@[simp] theorem State.setBuf_a (s : State) (which : Buf) (n : Nat) (bytes : Vector Byte n) : (s.setBuf which n bytes).a = s.a := rfl
@[simp] theorem State.setBuf_b (s : State) (which : Buf) (n : Nat) (bytes : Vector Byte n) : (s.setBuf which n bytes).b = s.b := rfl
@[simp] theorem State.setBuf_y (s : State) (which : Buf) (n : Nat) (bytes : Vector Byte n) : (s.setBuf which n bytes).y = s.y := rfl
@[simp] theorem State.setBuf_mem (s : State) (which : Buf) (n : Nat) (bytes : Vector Byte n) : (s.setBuf which n bytes).mem = Memory.writeBytes which.base bytes.toList s.mem := rfl
@[simp] theorem State.setBuf_ctx256 (s : State) (which : Buf) (n : Nat) (bytes : Vector Byte n) : (s.setBuf which n bytes).ctx256 = s.ctx256 := rfl
@[simp] theorem State.setBuf_ctx384 (s : State) (which : Buf) (n : Nat) (bytes : Vector Byte n) : (s.setBuf which n bytes).ctx384 = s.ctx384 := rfl
@[simp] theorem State.setBuf_ctx512 (s : State) (which : Buf) (n : Nat) (bytes : Vector Byte n) : (s.setBuf which n bytes).ctx512 = s.ctx512 := rfl
@[simp] theorem State.setBuf_host (s : State) (which : Buf) (n : Nat) (bytes : Vector Byte n) : (s.setBuf which n bytes).host = s.host := rfl

end setBufFields

section setRowOutFields

@[simp] theorem State.setRowOut_err (s : State) (bytes : Row) : (s.setRowOut bytes).err = s.err := rfl
@[simp] theorem State.setRowOut_cause (s : State) (bytes : Row) : (s.setRowOut bytes).cause = s.cause := rfl
@[simp] theorem State.setRowOut_fcmd (s : State) (bytes : Row) : (s.setRowOut bytes).fcmd = s.fcmd := rfl
@[simp] theorem State.setRowOut_idx (s : State) (bytes : Row) : (s.setRowOut bytes).idx = s.idx := rfl
@[simp] theorem State.setRowOut_a (s : State) (bytes : Row) : (s.setRowOut bytes).a = s.a := rfl
@[simp] theorem State.setRowOut_b (s : State) (bytes : Row) : (s.setRowOut bytes).b = s.b := rfl
@[simp] theorem State.setRowOut_y (s : State) (bytes : Row) : (s.setRowOut bytes).y = s.y := rfl
@[simp] theorem State.setRowOut_mem (s : State) (bytes : Row) : (s.setRowOut bytes).mem = Memory.writeBytes Buf.rowo.base bytes.toList s.mem := rfl
@[simp] theorem State.setRowOut_ctx256 (s : State) (bytes : Row) : (s.setRowOut bytes).ctx256 = s.ctx256 := rfl
@[simp] theorem State.setRowOut_ctx384 (s : State) (bytes : Row) : (s.setRowOut bytes).ctx384 = s.ctx384 := rfl
@[simp] theorem State.setRowOut_ctx512 (s : State) (bytes : Row) : (s.setRowOut bytes).ctx512 = s.ctx512 := rfl
@[simp] theorem State.setRowOut_host (s : State) (bytes : Row) : (s.setRowOut bytes).host = s.host := rfl

end setRowOutFields

section setBlockOutFields

@[simp] theorem State.setBlockOut_err (s : State) (v : Variant) (bytes : Block v) : (s.setBlockOut v bytes).err = s.err := rfl
@[simp] theorem State.setBlockOut_cause (s : State) (v : Variant) (bytes : Block v) : (s.setBlockOut v bytes).cause = s.cause := rfl
@[simp] theorem State.setBlockOut_fcmd (s : State) (v : Variant) (bytes : Block v) : (s.setBlockOut v bytes).fcmd = s.fcmd := rfl
@[simp] theorem State.setBlockOut_idx (s : State) (v : Variant) (bytes : Block v) : (s.setBlockOut v bytes).idx = s.idx := rfl
@[simp] theorem State.setBlockOut_a (s : State) (v : Variant) (bytes : Block v) : (s.setBlockOut v bytes).a = s.a := rfl
@[simp] theorem State.setBlockOut_b (s : State) (v : Variant) (bytes : Block v) : (s.setBlockOut v bytes).b = s.b := rfl
@[simp] theorem State.setBlockOut_y (s : State) (v : Variant) (bytes : Block v) : (s.setBlockOut v bytes).y = s.y := rfl
@[simp] theorem State.setBlockOut_mem (s : State) (v : Variant) (bytes : Block v) : (s.setBlockOut v bytes).mem = Memory.writeBytes Buf.dout.base bytes.toList s.mem := rfl
@[simp] theorem State.setBlockOut_ctx256 (s : State) (v : Variant) (bytes : Block v) : (s.setBlockOut v bytes).ctx256 = s.ctx256 := rfl
@[simp] theorem State.setBlockOut_ctx384 (s : State) (v : Variant) (bytes : Block v) : (s.setBlockOut v bytes).ctx384 = s.ctx384 := rfl
@[simp] theorem State.setBlockOut_ctx512 (s : State) (v : Variant) (bytes : Block v) : (s.setBlockOut v bytes).ctx512 = s.ctx512 := rfl
@[simp] theorem State.setBlockOut_host (s : State) (v : Variant) (bytes : Block v) : (s.setBlockOut v bytes).host = s.host := rfl

end setBlockOutFields

section setBoxAFields

@[simp] theorem State.setBoxA_err (s : State) (bytes : Box) : (s.setBoxA bytes).err = s.err := rfl
@[simp] theorem State.setBoxA_cause (s : State) (bytes : Box) : (s.setBoxA bytes).cause = s.cause := rfl
@[simp] theorem State.setBoxA_fcmd (s : State) (bytes : Box) : (s.setBoxA bytes).fcmd = s.fcmd := rfl
@[simp] theorem State.setBoxA_idx (s : State) (bytes : Box) : (s.setBoxA bytes).idx = s.idx := rfl
@[simp] theorem State.setBoxA_a (s : State) (bytes : Box) : (s.setBoxA bytes).a = s.a := rfl
@[simp] theorem State.setBoxA_b (s : State) (bytes : Box) : (s.setBoxA bytes).b = s.b := rfl
@[simp] theorem State.setBoxA_y (s : State) (bytes : Box) : (s.setBoxA bytes).y = s.y := rfl
@[simp] theorem State.setBoxA_mem (s : State) (bytes : Box) : (s.setBoxA bytes).mem = Memory.writeBytes Buf.boxa.base bytes.toList s.mem := rfl
@[simp] theorem State.setBoxA_ctx256 (s : State) (bytes : Box) : (s.setBoxA bytes).ctx256 = s.ctx256 := rfl
@[simp] theorem State.setBoxA_ctx384 (s : State) (bytes : Box) : (s.setBoxA bytes).ctx384 = s.ctx384 := rfl
@[simp] theorem State.setBoxA_ctx512 (s : State) (bytes : Box) : (s.setBoxA bytes).ctx512 = s.ctx512 := rfl
@[simp] theorem State.setBoxA_host (s : State) (bytes : Box) : (s.setBoxA bytes).host = s.host := rfl

end setBoxAFields

section setBoxBFields

@[simp] theorem State.setBoxB_err (s : State) (bytes : Box) : (s.setBoxB bytes).err = s.err := rfl
@[simp] theorem State.setBoxB_cause (s : State) (bytes : Box) : (s.setBoxB bytes).cause = s.cause := rfl
@[simp] theorem State.setBoxB_fcmd (s : State) (bytes : Box) : (s.setBoxB bytes).fcmd = s.fcmd := rfl
@[simp] theorem State.setBoxB_idx (s : State) (bytes : Box) : (s.setBoxB bytes).idx = s.idx := rfl
@[simp] theorem State.setBoxB_a (s : State) (bytes : Box) : (s.setBoxB bytes).a = s.a := rfl
@[simp] theorem State.setBoxB_b (s : State) (bytes : Box) : (s.setBoxB bytes).b = s.b := rfl
@[simp] theorem State.setBoxB_y (s : State) (bytes : Box) : (s.setBoxB bytes).y = s.y := rfl
@[simp] theorem State.setBoxB_mem (s : State) (bytes : Box) : (s.setBoxB bytes).mem = Memory.writeBytes Buf.boxb.base bytes.toList s.mem := rfl
@[simp] theorem State.setBoxB_ctx256 (s : State) (bytes : Box) : (s.setBoxB bytes).ctx256 = s.ctx256 := rfl
@[simp] theorem State.setBoxB_ctx384 (s : State) (bytes : Box) : (s.setBoxB bytes).ctx384 = s.ctx384 := rfl
@[simp] theorem State.setBoxB_ctx512 (s : State) (bytes : Box) : (s.setBoxB bytes).ctx512 = s.ctx512 := rfl
@[simp] theorem State.setBoxB_host (s : State) (bytes : Box) : (s.setBoxB bytes).host = s.host := rfl

end setBoxBFields

section takeFaultFields

@[simp] theorem takeFault_err (s : State) (k : Cause) (c : Byte) : (takeFault k c s).err = true := rfl
@[simp] theorem takeFault_cause (s : State) (k : Cause) (c : Byte) : (takeFault k c s).cause = k.code := rfl
@[simp] theorem takeFault_fcmd (s : State) (k : Cause) (c : Byte) : (takeFault k c s).fcmd = c := rfl
@[simp] theorem takeFault_idx (s : State) (k : Cause) (c : Byte) : (takeFault k c s).idx = s.idx := rfl
@[simp] theorem takeFault_a (s : State) (k : Cause) (c : Byte) : (takeFault k c s).a = s.a := rfl
@[simp] theorem takeFault_b (s : State) (k : Cause) (c : Byte) : (takeFault k c s).b = s.b := rfl
@[simp] theorem takeFault_y (s : State) (k : Cause) (c : Byte) : (takeFault k c s).y = s.y := rfl
@[simp] theorem takeFault_mem (s : State) (k : Cause) (c : Byte) : (takeFault k c s).mem = s.mem := rfl
@[simp] theorem takeFault_ctx256 (s : State) (k : Cause) (c : Byte) : (takeFault k c s).ctx256 = s.ctx256 := rfl
@[simp] theorem takeFault_ctx384 (s : State) (k : Cause) (c : Byte) : (takeFault k c s).ctx384 = s.ctx384 := rfl
@[simp] theorem takeFault_ctx512 (s : State) (k : Cause) (c : Byte) : (takeFault k c s).ctx512 = s.ctx512 := rfl
@[simp] theorem takeFault_host (s : State) (k : Cause) (c : Byte) : (takeFault k c s).host = s.host := rfl

end takeFaultFields

section resetEngineFields

@[simp] theorem resetEngine_err (s : State) : (resetEngine s).err = false := rfl
@[simp] theorem resetEngine_cause (s : State) : (resetEngine s).cause = 0 := rfl
@[simp] theorem resetEngine_fcmd (s : State) : (resetEngine s).fcmd = 0 := rfl
@[simp] theorem resetEngine_idx (s : State) : (resetEngine s).idx = 0 := rfl
@[simp] theorem resetEngine_a (s : State) : (resetEngine s).a = 0 := rfl
@[simp] theorem resetEngine_b (s : State) : (resetEngine s).b = 0 := rfl
@[simp] theorem resetEngine_y (s : State) : (resetEngine s).y = 0 := rfl
@[simp] theorem resetEngine_mem (s : State) : (resetEngine s).mem = [] := rfl
@[simp] theorem resetEngine_ctx256 (s : State) : (resetEngine s).ctx256 = Ctx.reset .v256 := rfl
@[simp] theorem resetEngine_ctx384 (s : State) : (resetEngine s).ctx384 = Ctx.reset .v384 := rfl
@[simp] theorem resetEngine_ctx512 (s : State) : (resetEngine s).ctx512 = Ctx.reset .v512 := rfl
@[simp] theorem resetEngine_host (s : State) : (resetEngine s).host = s.host := rfl

end resetEngineFields

section afterTakingFields

@[simp] theorem State.afterTaking_err (s : State) (rest : List Transaction) : (s.afterTaking rest).err = s.err := rfl
@[simp] theorem State.afterTaking_cause (s : State) (rest : List Transaction) : (s.afterTaking rest).cause = s.cause := rfl
@[simp] theorem State.afterTaking_fcmd (s : State) (rest : List Transaction) : (s.afterTaking rest).fcmd = s.fcmd := rfl
@[simp] theorem State.afterTaking_idx (s : State) (rest : List Transaction) : (s.afterTaking rest).idx = s.idx := rfl
@[simp] theorem State.afterTaking_a (s : State) (rest : List Transaction) : (s.afterTaking rest).a = s.a := rfl
@[simp] theorem State.afterTaking_b (s : State) (rest : List Transaction) : (s.afterTaking rest).b = s.b := rfl
@[simp] theorem State.afterTaking_y (s : State) (rest : List Transaction) : (s.afterTaking rest).y = s.y := rfl
@[simp] theorem State.afterTaking_mem (s : State) (rest : List Transaction) : (s.afterTaking rest).mem = s.mem := rfl
@[simp] theorem State.afterTaking_ctx256 (s : State) (rest : List Transaction) : (s.afterTaking rest).ctx256 = s.ctx256 := rfl
@[simp] theorem State.afterTaking_ctx384 (s : State) (rest : List Transaction) : (s.afterTaking rest).ctx384 = s.ctx384 := rfl
@[simp] theorem State.afterTaking_ctx512 (s : State) (rest : List Transaction) : (s.afterTaking rest).ctx512 = s.ctx512 := rfl
@[simp] theorem State.afterTaking_host (s : State) (rest : List Transaction) : (s.afterTaking rest).host = { s.host with pending := rest } := rfl

end afterTakingFields

section setCtxFields

@[simp] theorem State.setCtx_err (s : State) (v : Variant) (c : Ctx v) : (s.setCtx v c).err = s.err := by cases v <;> rfl
@[simp] theorem State.setCtx_cause (s : State) (v : Variant) (c : Ctx v) : (s.setCtx v c).cause = s.cause := by cases v <;> rfl
@[simp] theorem State.setCtx_fcmd (s : State) (v : Variant) (c : Ctx v) : (s.setCtx v c).fcmd = s.fcmd := by cases v <;> rfl
@[simp] theorem State.setCtx_idx (s : State) (v : Variant) (c : Ctx v) : (s.setCtx v c).idx = s.idx := by cases v <;> rfl
@[simp] theorem State.setCtx_a (s : State) (v : Variant) (c : Ctx v) : (s.setCtx v c).a = s.a := by cases v <;> rfl
@[simp] theorem State.setCtx_b (s : State) (v : Variant) (c : Ctx v) : (s.setCtx v c).b = s.b := by cases v <;> rfl
@[simp] theorem State.setCtx_y (s : State) (v : Variant) (c : Ctx v) : (s.setCtx v c).y = s.y := by cases v <;> rfl
@[simp] theorem State.setCtx_mem (s : State) (v : Variant) (c : Ctx v) : (s.setCtx v c).mem = s.mem := by cases v <;> rfl
@[simp] theorem State.setCtx_host (s : State) (v : Variant) (c : Ctx v) : (s.setCtx v c).host = s.host := by cases v <;> rfl
@[simp] theorem State.setCtx_ctx_same (s : State) (v : Variant) (c : Ctx v) : (s.setCtx v c).ctx v = c := by cases v <;> rfl
theorem State.setCtx_ctx_other (s : State) {v w : Variant} (c : Ctx v) (h : w ≠ v) : (s.setCtx v c).ctx w = s.ctx w := by
  cases v <;> cases w <;> first | rfl | exact absurd rfl h

end setCtxFields

section ctxFields

@[simp] theorem State.ctx_v256 (s : State) : s.ctx .v256 = s.ctx256 := rfl
@[simp] theorem State.ctx_v384 (s : State) : s.ctx .v384 = s.ctx384 := rfl
@[simp] theorem State.ctx_v512 (s : State) : s.ctx .v512 = s.ctx512 := rfl
@[simp] theorem State.setY_ctx (s : State) (x : Byte) (v : Variant) : (s.setY x).ctx v = s.ctx v := by cases v <;> rfl
@[simp] theorem State.setBuf_ctx (s : State) (which : Buf) (n : Nat) (bytes : Vector Byte n) (v : Variant) :
    (s.setBuf which n bytes).ctx v = s.ctx v := by cases v <;> rfl
@[simp] theorem takeFault_ctx (s : State) (k : Cause) (c : Byte) (v : Variant) : (takeFault k c s).ctx v = s.ctx v := by
  cases v <;> rfl
@[simp] theorem resetEngine_ctx (s : State) (v : Variant) : (resetEngine s).ctx v = Ctx.reset v := by cases v <;> rfl
@[simp] theorem State.afterTaking_ctx (s : State) (rest : List Transaction) (v : Variant) :
    (s.afterTaking rest).ctx v = s.ctx v := by cases v <;> rfl
@[simp] theorem State.reset_ctx (v : Variant) : State.reset.ctx v = Ctx.reset v := by cases v <;> rfl

end ctxFields

end Sys2Proof.Machine
end

