-- ==== Sys2Proof/Laws/Ops.lean ====
section
/-! SUPPORT. For each shared operation one lemma that says what it can do: the execution rule of a command, taking a
fault, storing a command's result, and reading its operands. -/

namespace Sys2Proof.Machine

/-- A command that is not halted has its effect. -/
theorem command_running {effect : State → State} {s : State} (h : s.running) :
    command effect s = .next (effect s) := by simp [command, h]

/-- A halted engine ignores a command. -/
theorem command_halted {effect : State → State} {s : State} (h : s.err = true) : command effect s = .next s := by
  simp [command, h]

/-- Everything a command can do. -/
theorem command_next {effect : State → State} {s t : State} (h : command effect s = .next t) :
    (s.err = true ∧ t = s) ∨ (s.err = false ∧ t = effect s) := by
  unfold command at h
  split at h <;> cases h
  · exact .inl ⟨‹_›, rfl⟩
  · exact .inr ⟨by simpa using ‹¬s.err = true›, rfl⟩

/-- A command on a valid slot has its effect. -/
theorem commandOnSlot_valid {v : Variant} {c : Byte} {effect : State → State} {s : State} (h : s.running)
    (hv : (s.ctx v).valid = true) : commandOnSlot v c effect s = .next (effect s) := by simp [commandOnSlot, h, hv]

/-- A command on an invalid slot takes the fault `ContextInvalid`. -/
theorem commandOnSlot_invalid {v : Variant} {c : Byte} {effect : State → State} {s : State} (h : s.running)
    (hv : (s.ctx v).valid = false) : commandOnSlot v c effect s = .next (takeFault .contextInvalid c s) := by
  simp [commandOnSlot, h, hv]

/-- A halted engine ignores a command on a slot. -/
theorem commandOnSlot_halted {v : Variant} {c : Byte} {effect : State → State} {s : State} (h : s.err = true) :
    commandOnSlot v c effect s = .next s := by simp [commandOnSlot, h]

/-- Everything a command on a slot can do. -/
theorem commandOnSlot_next {v : Variant} {c : Byte} {effect : State → State} {s t : State}
    (h : commandOnSlot v c effect s = .next t) :
    (s.err = true ∧ t = s) ∨ (s.err = false ∧ (s.ctx v).valid = true ∧ t = effect s) ∨
    (s.err = false ∧ (s.ctx v).valid = false ∧ t = takeFault .contextInvalid c s) := by
  unfold commandOnSlot at h
  split at h
  · cases h
    exact .inl ⟨‹_›, rfl⟩
  · have he : s.err = false := by simpa using ‹¬s.err = true›
    split at h <;> cases h
    · exact .inr (.inl ⟨he, ‹_›, rfl⟩)
    · exact .inr (.inr ⟨he, by simpa using ‹¬(s.ctx v).valid = true›, rfl⟩)

/-- Everything an illegal command byte can do. -/
theorem illegalCommand_next {c : Byte} {s t : State} (h : illegalCommand c s = .next t) :
    (s.err = true ∧ t = s) ∨ (s.err = false ∧ t = takeFault .illegalCommand c s) := by
  unfold illegalCommand at h
  split at h <;> cases h
  · exact .inl ⟨‹_›, rfl⟩
  · exact .inr ⟨by simpa using ‹¬s.err = true›, rfl⟩

/-- An operand's bytes are the buffer's cells in order. -/
@[simp] theorem State.source_getElem (s : State) (which : Buf) (n i : Nat) (h : i < n) :
    (s.source which n)[i] = Memory.read s.mem (which.base + i) := by simp [State.source]

/-- Storing a result stores exactly its bytes. -/
theorem State.setBuf_storesExactly (s : State) (which : Buf) (n : Nat) (bytes : Vector Byte n) :
    storesExactly s (s.setBuf which n bytes) which n bytes :=
  ⟨rfl,
   fun i h => by
    rw [State.setBuf_mem, Memory.read_writeBytes_inside _ _ _ _ (by simpa using h)]
    simp,
   fun addr h => by
    rw [State.setBuf_mem, Memory.read_writeBytes_outside _ _ _ _ (by simpa using h)]⟩

/-- Reading back a stored result. -/
theorem State.setBuf_source (s : State) (which : Buf) (n : Nat) (bytes : Vector Byte n) :
    (s.setBuf which n bytes).source which n = bytes := Memory.readBytes_writeBytes _ _ _ _

/-- Storing a result that fits its buffer keeps the memory canonical and within the buffers. -/
theorem State.setBuf_memoryOk {s : State} (hs : s.memoryOk) (which : Buf) {n : Nat} (hn : n ≤ which.size)
    (bytes : Vector Byte n) : (s.setBuf which n bytes).memoryOk := by
  refine ⟨Memory.wf_writeBytes _ _ hs.1, fun c hc => ?_⟩
  rcases Memory.mem_writeBytes hc with h | h
  · exact hs.2 c h
  · exact ⟨which, h.1, by have := h.2; simp at this; omega⟩

/-- A variant's block fits the 64-byte buffers (rules R16 to R18). -/
theorem bytes_le_size (v : Variant) : v.bytes ≤ 64 := by cases v <;> decide

end Sys2Proof.Machine
end

