-- ==== Sys2Proof/Laws/Exec.lean ====
section
/-! SUPPORT. What `exec`, a host write and a step can do, said once: every command is the common execution rule (rule
R69) over its effect, and every step is one of five things. -/

namespace Sys2Proof.Machine

/-- The effect of each command when it runs (rules R88 to R159). -/
def effectOf : Instr → State → State
  | .gfAdd => gfAddStep
  | .gfSub => gfSubStep
  | .gfMul => gfMulStep
  | .gfInv => gfInvStep
  | .sbMix => sbMixStep
  | .sbBase => sbBaseStep
  | .sbRnd => sbRndStep
  | .sbInvb => sbInvbStep
  | .sbDig => sbDigStep
  | .ksRc => ksRcStep
  | .ksRk256 => keyStep .v256
  | .ksRk384 => keyStep .v384
  | .ksRk512 => keyStep .v512
  | .dfFwd256 => diffuseStep .v256
  | .dfFwd384 => diffuseStep .v384
  | .dfFwd512 => diffuseStep .v512
  | .dfInv256 => diffuseInvStep .v256
  | .dfInv384 => diffuseInvStep .v384
  | .dfInv512 => diffuseInvStep .v512
  | .cfF => cfFStep
  | .cfFi => cfFiStep
  | .ciNew256 => constructStep .v256
  | .ciNew384 => constructStep .v384
  | .ciNew512 => constructStep .v512
  | .ciEnc256 => encryptStep .v256
  | .ciEnc384 => encryptStep .v384
  | .ciEnc512 => encryptStep .v512
  | .ciDec256 => decryptStep .v256
  | .ciDec384 => decryptStep .v384
  | .ciDec512 => decryptStep .v512
  | .ciFree256 => freeStep .v256
  | .ciFree384 => freeStep .v384
  | .ciFree512 => freeStep .v512

/-- The variant of the slot a command needs valid, if it needs one (rule R172). -/
def slotNeeded : Instr → Option Variant
  | .ciEnc256 | .ciDec256 => some .v256
  | .ciEnc384 | .ciDec384 => some .v384
  | .ciEnc512 | .ciDec512 => some .v512
  | _ => none

/-- A command that needs no slot is the common execution rule over its effect. -/
theorem exec_eq_command {i : Instr} (h : slotNeeded i = none) (s : State) : exec i s = command (effectOf i) s := by
  cases i <;> first | rfl | cases h

/-- A command that needs a slot is the execution rule of rule R172 over its effect. -/
theorem exec_eq_commandOnSlot {i : Instr} {v : Variant} (h : slotNeeded i = some v) (s : State) :
    exec i s = commandOnSlot v (encode i) (effectOf i) s := by
  cases i <;> first | (cases h; rfl) | cases h

/-- A halted engine ignores every command (rule R176). -/
theorem exec_halted (i : Instr) {s : State} (h : s.err = true) : exec i s = .next s := by
  cases hn : slotNeeded i with
  | none => rw [exec_eq_command hn, command_halted h]
  | some v => rw [exec_eq_commandOnSlot hn, commandOnSlot_halted h]

/-- Everything a command can do: nothing while halted, its effect, or the fault `ContextInvalid`. -/
theorem exec_next {i : Instr} {s t : State} (h : exec i s = .next t) :
    (s.err = true ∧ t = s) ∨
    (s.err = false ∧ (∀ v, slotNeeded i = some v → (s.ctx v).valid = true) ∧ t = effectOf i s) ∨
    (s.err = false ∧ (∃ v, slotNeeded i = some v ∧ (s.ctx v).valid = false) ∧
      t = takeFault .contextInvalid (encode i) s) := by
  cases hn : slotNeeded i with
  | none =>
    rw [exec_eq_command hn] at h
    rcases command_next h with h | h
    · exact .inl h
    · exact .inr (.inl ⟨h.1, fun v hv => by simp at hv, h.2⟩)
  | some v =>
    rw [exec_eq_commandOnSlot hn] at h
    rcases commandOnSlot_next h with h | h | h
    · exact .inl h
    · exact .inr (.inl ⟨h.1, fun w hw => by cases hw; exact h.2.1, h.2.2⟩)
    · exact .inr (.inr ⟨h.1, ⟨v, rfl, h.2.1⟩, h.2.2⟩)

/-- Everything an executed command byte can do: its command, or, for an illegal byte, nothing while halted and the fault
`IllegalCommand` otherwise. -/
theorem execByte_next {c : Byte} {s t : State} (h : execByte c s = .next t) :
    (∃ i, decode c = .ok i ∧ exec i s = .next t) ∨
    ((∀ i, decode c ≠ .ok i) ∧
      ((s.err = true ∧ t = s) ∨ (s.err = false ∧ t = takeFault .illegalCommand c s))) := by
  unfold execByte at h
  split at h
  · next i hi => exact .inl ⟨i, hi, h⟩
  · next e he => exact .inr ⟨fun i hi => by simp [he] at hi, illegalCommand_next h⟩

/-- What stands at each window address, by ranges (rule R41). -/
def mappedAt (addr : Nat) : Target × Access :=
  if addr = 0x000 then (.cmd, .writeOnly)
  else if addr = 0x001 then (.status, .readOnly)
  else if addr = 0x002 then (.cause, .readOnly)
  else if addr = 0x003 then (.fcmd, .readOnly)
  else if addr = 0x004 then (.idx, .readWrite)
  else if addr = 0x005 then (.a, .readWrite)
  else if addr = 0x006 then (.b, .readWrite)
  else if addr = 0x007 then (.y, .readOnly)
  else if addr < 0x010 then (.buf .row, .readWrite)
  else if addr < 0x018 then (.buf .sk, .readWrite)
  else if addr < 0x020 then (.buf .rowo, .readOnly)
  else if addr < 0x040 then (.reserved, .none)
  else if addr < 0x080 then (.buf .key, .readWrite)
  else if addr < 0x0C0 then (.buf .din, .readWrite)
  else if addr < 0x100 then (.buf .dout, .readOnly)
  else if addr < 0x200 then (.buf .boxa, .readWrite)
  else if addr < 0x300 then (.buf .boxb, .readOnly)
  else (.reserved, .none)

/-- The address map, looked up by ranges. -/
theorem lookup_eq_mappedAt (addr : Addr) : lookup addr.toNat = mappedAt addr.toNat := by
  have h : ∀ a : Fin 1024, lookup a.val = mappedAt a.val := by decide +kernel
  exact h ⟨addr.toNat, addr.isLt⟩

/-- A write to `CMD` executes its byte (rule R43). -/
theorem hostWrite_cmd (c : Byte) (s : State) : hostWrite 0x000 c s = execByte c s := rfl

/-- Whether a target is a cell of the right kind for a RW address. -/
def writableTarget (addr : Nat) : Target → Bool
  | .idx | .a | .b => true
  | .buf which => decide (which.base ≤ addr) && decide (addr < which.base + which.size)
  | .cmd | .status | .cause | .fcmd | .y | .reserved => false

/-- Only 0x000 is write-only, and a RW address is `IDX`, `A`, `B` or a buffer cell (rule R41). -/
theorem lookup_access (addr : Addr) :
    ((lookup addr.toNat).2 = .writeOnly → addr = 0x000) ∧
    ((lookup addr.toNat).2 = .readWrite → writableTarget addr.toNat (lookup addr.toNat).1 = true) := by
  have h : ∀ a : Fin 1024, ((lookup a.val).2 = .writeOnly → a.val = 0) ∧
      ((lookup a.val).2 = .readWrite → writableTarget a.val (lookup a.val).1 = true) := by decide +kernel
  exact ⟨fun e => BitVec.eq_of_toNat_eq ((h ⟨addr.toNat, addr.isLt⟩).1 e), (h ⟨addr.toNat, addr.isLt⟩).2⟩

/-- Everything a host write can do: execute (at 0x000 only), replace one RW cell, or nothing. -/
theorem hostWrite_next {addr : Addr} {x : Byte} {s t : State} (h : hostWrite addr x s = .next t) :
    (addr = 0x000 ∧ execByte x s = .next t) ∨
    t = s ∨ t = { s with idx := x } ∨ t = { s with a := x } ∨ t = { s with b := x } ∨
    (bufferAddress addr.toNat ∧ t = { s with mem := Memory.write addr.toNat x s.mem }) := by
  have hacc := lookup_access addr
  unfold hostWrite at h
  split at h
  · next heq => exact .inl ⟨hacc.1 (by rw [heq]), h⟩
  · next target heq =>
    have ht := hacc.2 (by rw [heq])
    rw [heq] at ht
    cases h
    cases target <;> simp only [writableTarget, Bool.and_eq_true, decide_eq_true_eq, Bool.false_eq_true] at ht
    · exact .inr (.inr (.inl rfl))
    · exact .inr (.inr (.inr (.inl rfl)))
    · exact .inr (.inr (.inr (.inr (.inl rfl))))
    · next which => exact .inr (.inr (.inr (.inr (.inr ⟨⟨which, ht⟩, rfl⟩))))
  · cases h; exact .inr (.inl rfl)
  · cases h; exact .inr (.inl rfl)

/-- Everything a step can do: stay idle, answer a read, reset, or carry out a write. -/
theorem step_next {s t : State} (h : step s = .next t) :
    (s.host.pending = [] ∧ t = s) ∨
    ∃ rest, (∃ addr, s.host.pending = .read addr :: rest ∧
        t = { s with host := { pending := rest, readData := some (hostRead (s.afterTaking rest) addr) } }) ∨
      (s.host.pending = .reset :: rest ∧ t = resetEngine (s.afterTaking rest)) ∨
      ∃ addr x, s.host.pending = .write addr x :: rest ∧ hostWrite addr x (s.afterTaking rest) = .next t := by
  unfold step at h
  split at h
  · next hp => cases h; exact .inl ⟨hp, rfl⟩
  · next tr rest hp =>
    refine .inr ⟨rest, ?_⟩
    cases tr with
    | read addr => cases h; exact .inl ⟨addr, hp, rfl⟩
    | reset => cases h; exact .inr (.inl ⟨hp, rfl⟩)
    | write addr x => exact .inr (.inr ⟨addr, x, hp, h⟩)

end Sys2Proof.Machine
end

