-- ==== Sys2Proof/Laws/PerInstr.lean ====
section
/-! SUPPORT. Statements made per instruction: for each command, its byte holds its two fields where rule R60 puts them,
and its command word passes the checks of rules R61 and R62. -/

namespace Sys2Proof.Laws.EncodingFields

/-- The byte of a command, taken apart, gives the command's own fields back, and they are well formed. -/
def Statement (i : Instr) : Prop :=
  CmdWord.ofByte (encode i) = i.fields ∧ i.fields.wellFormed = true

theorem gfAdd : Statement .gfAdd := ⟨by decide, by decide⟩
theorem gfSub : Statement .gfSub := ⟨by decide, by decide⟩
theorem gfMul : Statement .gfMul := ⟨by decide, by decide⟩
theorem gfInv : Statement .gfInv := ⟨by decide, by decide⟩
theorem sbMix : Statement .sbMix := ⟨by decide, by decide⟩
theorem sbBase : Statement .sbBase := ⟨by decide, by decide⟩
theorem sbRnd : Statement .sbRnd := ⟨by decide, by decide⟩
theorem sbInvb : Statement .sbInvb := ⟨by decide, by decide⟩
theorem sbDig : Statement .sbDig := ⟨by decide, by decide⟩
theorem ksRc : Statement .ksRc := ⟨by decide, by decide⟩
theorem ksRk256 : Statement .ksRk256 := ⟨by decide, by decide⟩
theorem dfFwd256 : Statement .dfFwd256 := ⟨by decide, by decide⟩
theorem dfInv256 : Statement .dfInv256 := ⟨by decide, by decide⟩
theorem cfF : Statement .cfF := ⟨by decide, by decide⟩
theorem cfFi : Statement .cfFi := ⟨by decide, by decide⟩
theorem ciNew256 : Statement .ciNew256 := ⟨by decide, by decide⟩
theorem ciEnc256 : Statement .ciEnc256 := ⟨by decide, by decide⟩
theorem ciDec256 : Statement .ciDec256 := ⟨by decide, by decide⟩
theorem ciFree256 : Statement .ciFree256 := ⟨by decide, by decide⟩
theorem ksRk384 : Statement .ksRk384 := ⟨by decide, by decide⟩
theorem dfFwd384 : Statement .dfFwd384 := ⟨by decide, by decide⟩
theorem dfInv384 : Statement .dfInv384 := ⟨by decide, by decide⟩
theorem ciNew384 : Statement .ciNew384 := ⟨by decide, by decide⟩
theorem ciEnc384 : Statement .ciEnc384 := ⟨by decide, by decide⟩
theorem ciDec384 : Statement .ciDec384 := ⟨by decide, by decide⟩
theorem ciFree384 : Statement .ciFree384 := ⟨by decide, by decide⟩
theorem ksRk512 : Statement .ksRk512 := ⟨by decide, by decide⟩
theorem dfFwd512 : Statement .dfFwd512 := ⟨by decide, by decide⟩
theorem dfInv512 : Statement .dfInv512 := ⟨by decide, by decide⟩
theorem ciNew512 : Statement .ciNew512 := ⟨by decide, by decide⟩
theorem ciEnc512 : Statement .ciEnc512 := ⟨by decide, by decide⟩
theorem ciDec512 : Statement .ciDec512 := ⟨by decide, by decide⟩
theorem ciFree512 : Statement .ciFree512 := ⟨by decide, by decide⟩

end Sys2Proof.Laws.EncodingFields
end

