-- ==== Sys2Proof/Tests/Slice0.lean ====
section
/-! SUPPORT. Tests of the model. Expected values are the spec's own: the opcode map (rule R62), the examples of the
command rules, and the vectors of 95_, 96_ and 97_test_vectors*.md (each test names its source). C1, C2, C3 are the
illustrative configurations of 95_test_vectors.md section 3. -/

namespace Sys2Proof.Tests

-- one kernel evaluation at a time: many at once would each hold a thread and its stack
set_option Elab.async false

open Sys2Proof.Machine

/-- Configuration C1 (95_test_vectors.md section 3). -/
def c1 : Params := { red := 0x1B, mixDir := .left }

/-- Configuration C2. -/
def c2 : Params := { red := 0x1D, mixDir := .left }

/-- Configuration C3. -/
def c3 : Params := { red := 0x1B, mixDir := .right }

/-! ### Well-formedness: one ill-formed word for each check (rules R61, R64) -/

theorem test_wellFormed_refuses_reserved_variant :
    CmdWord.variantDefined { v := 3, op := 0x03 } = false ∧ CmdWord.wellFormed { v := 3, op := 0x29 } = false := by decide
theorem test_wellFormed_refuses_unassigned_op :
    CmdWord.opAssigned { v := 0, op := 0x05 } = false ∧ CmdWord.wellFormed { v := 0, op := 0x00 } = false := by decide
theorem test_wellFormed_refuses_variant_on_fixed_op :
    CmdWord.variantAllowed { v := 1, op := 0x03 } = false ∧ CmdWord.wellFormed { v := 2, op := 0x20 } = false := by decide
theorem test_wellFormed_accepts_ks_rk_512 : CmdWord.wellFormed { v := 2, op := 0x11 } = true := by decide

/-! ### Decoding: every command's byte, its bits written out from the "encoding" column of the opcode table -/

theorem test_decode_field_family :
    decode 0b00000001 = .ok .gfAdd ∧ decode 0b00000010 = .ok .gfSub ∧ decode 0b00000011 = .ok .gfMul ∧
    decode 0b00000100 = .ok .gfInv := by decide
theorem test_decode_sbox_family :
    decode 0b00001000 = .ok .sbMix ∧ decode 0b00001001 = .ok .sbBase ∧ decode 0b00001010 = .ok .sbRnd ∧
    decode 0b00001011 = .ok .sbInvb ∧ decode 0b00001100 = .ok .sbDig := by decide
theorem test_decode_key_schedule_family :
    decode 0b00010000 = .ok .ksRc ∧ decode 0b00010001 = .ok .ksRk256 ∧ decode 0b01010001 = .ok .ksRk384 ∧
    decode 0b10010001 = .ok .ksRk512 := by decide
theorem test_decode_diffusion_family :
    decode 0b00011000 = .ok .dfFwd256 ∧ decode 0b01011000 = .ok .dfFwd384 ∧ decode 0b10011000 = .ok .dfFwd512 ∧
    decode 0b00011001 = .ok .dfInv256 ∧ decode 0b01011001 = .ok .dfInv384 ∧ decode 0b10011001 = .ok .dfInv512 := by
  decide
theorem test_decode_confusion_family : decode 0b00100000 = .ok .cfF ∧ decode 0b00100001 = .ok .cfFi := by decide
theorem test_decode_construct_and_free :
    decode 0b00101000 = .ok .ciNew256 ∧ decode 0b01101000 = .ok .ciNew384 ∧ decode 0b10101000 = .ok .ciNew512 ∧
    decode 0b00101011 = .ok .ciFree256 ∧ decode 0b01101011 = .ok .ciFree384 ∧ decode 0b10101011 = .ok .ciFree512 := by
  decide
theorem test_decode_encrypt_and_decrypt :
    decode 0b00101001 = .ok .ciEnc256 ∧ decode 0b01101001 = .ok .ciEnc384 ∧ decode 0b10101001 = .ok .ciEnc512 ∧
    decode 0b00101010 = .ok .ciDec256 ∧ decode 0b01101010 = .ok .ciDec384 ∧ decode 0b10101010 = .ok .ciDec512 := by
  decide

/-- The illegal samples of 97_test_vectors_cipher.md section 4.7. -/
theorem test_decode_illegal_samples :
    decode 0x00 = .error .unassignedOp ∧ decode 0x05 = .error .unassignedOp ∧ decode 0x43 = .error .variantOnFixedOp ∧
    decode 0x83 = .error .variantOnFixedOp ∧ decode 0xC1 = .error .reservedVariant ∧
    decode 0xE9 = .error .reservedVariant ∧ decode 0x3F = .error .unassignedOp ∧ decode 0xFF = .error .reservedVariant ∧
    decode 0x50 = .error .variantOnFixedOp ∧ decode 0x60 = .error .variantOnFixedOp := by decide

theorem test_decodeTableWord_ci_dec_512 : decodeTableWord 8 0xAA = some .ciDec512 := by decide
theorem test_decodeTableWord_illegal : decodeTableWord 8 0xEA = none := by decide

/-! ### Functions (96_test_vectors_layers.md sections 4.2 to 4.5, 95_test_vectors.md section 4.1) -/

theorem test_xtime : xtime c1 0xAE = 0x47 ∧ xtime c2 0xAE = 0x41 ∧ xtime c1 0x57 = 0xAE := by decide
theorem test_gfMul_reduces : gfMul c1 0x57 0x13 = 0xFE ∧ gfMul c2 0x57 0x13 = 0xE0 ∧ gfMul c1 0xB6 0x53 = 0x36 := by decide
theorem test_gfInv : gfInv c1 0x53 = 0xCA ∧ gfInv c2 0x53 = 0x8C ∧ gfInv c1 0xFF = 0x1C := by decide +kernel
theorem test_rotations : rotl8 0x81 1 = 0x03 ∧ rotr8 0x81 1 = 0xC0 ∧ rotl8 0x12 4 = 0x21 ∧ rotr8 0x12 4 = 0x21 := by decide
theorem test_bitMix : bitMix c1 0x53 = 0x56 ∧ bitMix c3 0x53 = 0x59 ∧ bitMix c1 0x04 = 0x57 := by decide
theorem test_digest :
    digest c1 #v[0x01, 0x02, 0x03, 0x04, 0x05, 0x06, 0x07, 0x08] = 0x93 ∧
    digest c2 #v[0x00, 0x02, 0x00, 0x04, 0x00, 0x08, 0x00, 0x10] = 0x74 := by decide +kernel
theorem test_roundConstant : roundConstant c1 19 = 0x6A ∧ roundConstant c2 9 = 0xCD := by decide +kernel
theorem test_roundKey_recurrence :
    (roundKey c1 #v[0x01, 0x02, 0x03, 0x04, 0x05, 0x06, 0x07, 0x08] 5).toList =
      [0x6F, 0x55, 0x79, 0x64, 0x89, 0x9F, 0xE6, 0x65] := by decide +kernel
theorem test_funcF_unit_response_5 :
    funcF #v[0, 0, 0, 0, 0, 1, 0, 0] #v[0, 0, 0, 0, 0, 0, 0, 0] = #v[0x00, 0x82, 0x00, 0x00, 0x40, 0x82, 0x00, 0x00] := by
  decide +kernel
theorem test_funcFInv :
    funcFInv #v[0, 1, 2, 3, 4, 5, 6, 7] #v[0, 0, 0, 0, 0, 0, 0, 0] = #v[0x04, 0xD5, 0xB1, 0x03, 0x30, 0x87, 0x93, 0x04] := by
  decide +kernel

/-! ### One step of each command, on small states (source: the rule's own example or corner case) -/

/-- The state after reset with the two scalar operands set. -/
def withOperands (a b : Byte) : State := { State.reset with a := a, b := b }

/-- The state after reset with the bytes of one buffer set. -/
def withBuf (which : Buf) (bytes : List Byte) : State :=
  { State.reset with mem := Memory.writeBytes which.base bytes [] }

/-- What a test reads of an outcome: a byte of the next state. -/
def seen (o : Host.Outcome State Fault Refusal) (f : State → Byte) : Option Byte :=
  match o with
  | .next t => some (f t)
  | .fault _ => none
  | .refused _ => none

/-- The byte at a window address. -/
def cellAt (addr : Addr) (s : State) : Byte := hostRead s addr

theorem test_gfAdd : seen (exec .gfAdd (withOperands 0x57 0x83)) State.y = some 0xD4 := by decide
theorem test_gfSub : seen (exec .gfSub (withOperands 0x80 0x01)) State.y = some 0x81 := by decide
theorem test_gfMul : seen (exec .gfMul (withOperands 0x0F 0x0F)) State.y = some 0x55 := by decide +kernel
theorem test_gfInv_zero : seen (exec .gfInv (withOperands 0x00 0x07)) State.y = some 0x00 := by decide +kernel
theorem test_gfInv_one : seen (exec .gfInv (withOperands 0x01 0x07)) State.y = some 0x01 := by decide +kernel
theorem test_sbMix : seen (exec .sbMix (withOperands 0x01 0x00)) State.y = some (bitMix Config.params 0x01) := rfl
theorem test_sbBase :
    seen (exec .sbBase State.reset) (fun t => Memory.read t.mem (Buf.boxa.base + 1)) = some (baseBox Config.params)[1] := by
  rw [exec, execSbBase, command_running rfl, seen, sbBaseStep, State.setBoxA,
    (State.setBuf_storesExactly State.reset .boxa 256 _).2.1 1 (by decide)]
theorem test_sbRnd :
    seen (exec .sbRnd (withOperands 0xB3 0)) (fun t => Memory.read t.mem (Buf.boxa.base + 1)) =
      some (roundBox Config.params 0xB3)[1] := by
  rw [exec, execSbRnd, command_running rfl, seen, sbRndStep, State.setBoxA,
    (State.setBuf_storesExactly (withOperands 0xB3 0) .boxa 256 _).2.1 1 (by decide)]
  rfl
theorem test_roundBox : boxAt (roundBox c1 0xB3) 0x01 = 0x66 ∧ boxAt (roundBox c1 0xB3) 0x02 = 0x75 := by decide +kernel
theorem test_sbInvb_of_zero_box : seen (exec .sbInvb State.reset) (cellAt 0x200) = some 0xFF := by decide +kernel
theorem test_sbDig_one_factor :
    seen (exec .sbDig (withBuf .sk [0, 0, 0, 0, 0, 0, 0, 0x9C])) State.y = some 0x9C := by decide +kernel
theorem test_ksRc_two : seen (exec .ksRc { State.reset with idx := 2 }) State.y = some 0x20 := by decide +kernel
theorem test_roundKey_of_zero_key : (roundKey c1 (Vector.replicate 3 0x00) 0).toList = [0x08, 0x08, 0x08] := by
  decide +kernel
theorem test_ksRk384_stores_the_round_key :
    seen (exec .ksRk384 State.reset) (fun t => Memory.read t.mem (Buf.dout.base + 47)) =
      some (roundKey Config.params (State.reset.keyIn .v384) 0)[47] := by
  rw [exec, execKsRk384, command_running rfl, seen, keyStep, State.setBlockOut,
    (State.setBuf_storesExactly State.reset .dout Variant.v384.bytes _).2.1 47 (by decide)]
  rfl
theorem test_ksRk256_leaves_the_tail :
    seen (exec .ksRk256 (withBuf .dout [])) (fun t => Memory.read t.mem 0x0E0) = some 0x00 := by
  rw [exec, execKsRk256, command_running rfl, seen, keyStep, State.setBlockOut,
    (State.setBuf_storesExactly (withBuf .dout []) .dout Variant.v256.bytes _).2.2 0x0E0 (by decide)]
  rfl
theorem test_dfFwd256 :
    seen (exec .dfFwd256 (withBuf .din ((List.range 32).map (BitVec.ofNat 8)))) (cellAt 0x0C1) = some 0x19 := by
  decide +kernel
theorem test_dfInv384 :
    seen (exec .dfInv384 (withBuf .din ((List.range 48).map (BitVec.ofNat 8)))) (cellAt 0x0C4) = some 0x24 := by
  decide +kernel
theorem test_dfFwd512 :
    seen (exec .dfFwd512 (withBuf .din ((List.range 64).map (BitVec.ofNat 8)))) (cellAt 0x0C1) = some 0x39 := by
  decide +kernel
theorem test_cfF_key_only :
    seen (exec .cfF (withBuf .sk [1, 2, 3, 4, 5, 6, 7, 8])) (cellAt 0x018) = some 0x05 := by decide +kernel
theorem test_cfFi :
    seen (exec .cfFi (withBuf .sk [1, 2, 3, 4, 5, 6, 7, 8])) (cellAt 0x019) = some 0xF2 := by decide +kernel
theorem test_ciNew512_status : seen (exec .ciNew512 State.reset) State.status = some 0x08 := by decide +kernel
theorem test_ciEnc384_faults :
    seen (exec .ciEnc384 State.reset) State.cause = some 0x02 ∧ seen (exec .ciEnc384 State.reset) State.fcmd = some 0x69 := by
  decide +kernel
theorem test_ciDec512_faults :
    seen (exec .ciDec512 State.reset) State.status = some 0x01 ∧ seen (exec .ciDec512 State.reset) State.fcmd = some 0xAA := by
  decide +kernel
theorem test_ciFree256_on_invalid_slot : seen (exec .ciFree256 State.reset) State.status = some 0x00 := by decide +kernel

/-! ### Host accesses, faults and reset (97_test_vectors_cipher.md section 4.7) -/

theorem test_write_to_readOnly_is_ignored :
    seen (transact (.write 0x007 0xAA) State.reset) (cellAt 0x007) = some 0x00 ∧
    seen (transact (.write 0x0C0 0x55) State.reset) (cellAt 0x0C0) = some 0x00 := by decide +kernel
theorem test_write_to_reserved_is_ignored :
    seen (transact (.write 0x3FF 0x55) State.reset) (cellAt 0x3FF) = some 0x00 := by decide +kernel
theorem test_write_to_key63 : seen (transact (.write 0x07F 0x12) State.reset) (cellAt 0x07F) = some 0x12 := by decide +kernel
theorem test_illegal_command :
    seen (transact (.write 0x000 0x43) State.reset) State.cause = some 0x01 ∧
    seen (transact (.write 0x000 0x43) State.reset) State.fcmd = some 0x43 := by decide +kernel
theorem test_halted_ignores_second_fault :
    seen (transact (.write 0x000 0xE9) (takeFault .illegalCommand 0x00 State.reset)) State.fcmd = some 0x00 := by
  decide +kernel
theorem test_reset_leaves_the_halted_state :
    seen (transact .reset (takeFault .contextInvalid 0x69 (withOperands 0x77 0))) State.a = some 0x00 ∧
    seen (transact .reset (takeFault .contextInvalid 0x69 State.reset)) State.status = some 0x00 := by decide +kernel
theorem test_read_returns_the_byte :
    seen (transact (.read 0x005) (withOperands 0x77 0)) (fun t => t.host.readData.getD 0) = some 0x77 := by decide +kernel
theorem test_step_fetches_the_placed_command :
    seen (step ((withOperands 0x57 0x83).withFetchWord 8 0x01)) State.y = some 0xD4 := by decide +kernel
theorem test_step_of_placed_command_is_exec :
    step (State.reset.withFetchWord 8 0x29) = exec .ciEnc256 State.reset := rfl

/-! ### Host programs (rules R67, R68) -/

theorem test_fill_sk :
    seen ((Stmt.fill .sk [0x11, 0x22]).run State.reset) (cellAt 0x011) = some 0x22 := by decide +kernel
theorem test_copy_row_from_rowo :
    seen ((Stmt.copy .row .rowo 2).run (withBuf .rowo [0xAE, 0xD1])) (cellAt 0x009) = some 0xD1 := by decide +kernel

/-! ### Witnesses: for each statement with hypotheses, a state and operands that meet all of them together -/

/-- The host's next transactions, on the state after reset. -/
def withPending (ts : List Transaction) : State :=
  { State.reset with host := { pending := ts, readData := none } }

/-- The state after reset with the 256-bit slot constructed from the zero key. -/
def constructed : State := constructStep .v256 State.reset

/-- A halted state: `CI.ENC.384` was executed right after reset. -/
def halted : State := takeFault .contextInvalid 0x69 State.reset

/-- The box that maps every byte to itself. -/
def identityBox : Box := Vector.ofFn fun i => BitVec.ofNat 8 i.val

theorem identityBox_apply (b : Byte) : boxAt identityBox b = b := by
  simp [boxAt, identityBox]

theorem witness_StepRunsTheDecodedCommand :
    (withPending [.write 0x000 0xAA]).host.pending = .write 0x000 0xAA :: [] ∧ decode 0xAA = .ok .ciDec512 ∧
    Instr.ciDec512.fields.wellFormed = true := ⟨rfl, by decide, by decide⟩
theorem witness_IllegalCommandTakesItsFault :
    (withPending [.write 0x000 0xE9]).running ∧ (∀ i, decode 0xE9 ≠ .ok i) ∧
    (withPending [.write 0x000 0xE9]).host.pending = .write 0x000 0xE9 :: [] :=
  ⟨rfl, fun i h => Except.noConfusion rfl rfl (heq_of_eq ((by decide : decode 0xE9 = .error .reservedVariant).symm.trans h)), rfl⟩
theorem witness_InvalidSlotTakesContextInvalid :
    State.reset.running ∧ (∀ v, (State.reset.ctx v).valid = false) ∧
    ∀ w, Instr.ciFree512 ≠ .ciEnc w ∧ Instr.ciFree512 ≠ .ciDec w :=
  ⟨rfl, fun v => by cases v <;> rfl, fun w => by cases w <;> decide⟩
theorem witness_HaltedEngineIgnoresCommandsUntilReset :
    halted.err = true ∧ (0x000 : Addr) ≠ 0x001 ∧ (0x3FF : Addr) ≠ 0x001 ∧ (0x001 : Addr) ≠ 0x000 ∧
    (0x3FF : Addr) ≠ 0x000 ∧ step halted = .next halted :=
  ⟨rfl, by decide, by decide, by decide, by decide, rfl⟩
theorem witness_HaltedEngine_reset :
    let s := { halted with host := { pending := [.reset], readData := none } }
    s.err = true ∧ step s = .next State.reset := ⟨rfl, rfl⟩
theorem witness_HostWrite_readWrite_boundaries :
    ∀ a ∈ [0x008, 0x017, 0x040, 0x0BF, 0x100, 0x1FF],
      (0x008 ≤ (BitVec.ofNat 10 a).toNat ∧ (BitVec.ofNat 10 a).toNat < 0x018) ∨
      (0x040 ≤ (BitVec.ofNat 10 a).toNat ∧ (BitVec.ofNat 10 a).toNat < 0x0C0) ∨
      (0x100 ≤ (BitVec.ofNat 10 a).toNat ∧ (BitVec.ofNat 10 a).toNat < 0x200) := by decide
theorem witness_HostWrite_ignored_boundaries :
    ∀ a ∈ [0x001, 0x003, 0x007, 0x018, 0x03F, 0x0C0, 0x0FF, 0x200, 0x3FF],
      (0x001 ≤ (BitVec.ofNat 10 a).toNat ∧ (BitVec.ofNat 10 a).toNat < 0x004) ∨ (BitVec.ofNat 10 a).toNat = 0x007 ∨
      (0x018 ≤ (BitVec.ofNat 10 a).toNat ∧ (BitVec.ofNat 10 a).toNat < 0x040) ∨
      (0x0C0 ≤ (BitVec.ofNat 10 a).toNat ∧ (BitVec.ofNat 10 a).toNat < 0x100) ∨
      0x200 ≤ (BitVec.ofNat 10 a).toNat := by decide
theorem witness_HostWrite_single_cells :
    (0x000 : Addr).toNat = 0x000 ∧ (0x004 : Addr).toNat = 0x004 ∧ (0x005 : Addr).toNat = 0x005 ∧
    (0x006 : Addr).toNat = 0x006 := by decide
theorem witness_StatusBits_reserved : 4 ≤ 4 ∧ 4 ≤ 7 := by decide
theorem witness_ResetZeroesEveryCell :
    let s := { halted with host := { pending := [.reset], readData := none } }
    s.err = true ∧ step s = .next State.reset ∧ State.reset.err = false := ⟨rfl, rfl, rfl⟩
theorem witness_EveryStep_idle : State.reset.host.pending = [] := rfl
theorem witness_NoCommandWritesASource :
    exec .gfSub (withOperands 1 0) = .next (gfSubStep (withOperands 1 0)) ∧
    (0x008 ≤ 0x008 ∧ 0x008 < 0x018) ∧ (0x040 ≤ 0x0BF ∧ 0x0BF < 0x0C0) := ⟨rfl, by decide, by decide⟩
theorem witness_Results_y :
    exec .gfAdd (withOperands 1 0) = .next (gfAddStep (withOperands 1 0)) ∧
    (gfAddStep (withOperands 1 0)).y ≠ (withOperands 1 0).y := ⟨rfl, by decide⟩
theorem witness_Results_rowo :
    exec .cfF (withBuf .sk [1, 2, 3, 4, 5, 6, 7, 8]) = .next (cfFStep (withBuf .sk [1, 2, 3, 4, 5, 6, 7, 8])) ∧
    Memory.read (cfFStep (withBuf .sk [1, 2, 3, 4, 5, 6, 7, 8])).mem 0x01F ≠
      Memory.read (withBuf .sk [1, 2, 3, 4, 5, 6, 7, 8]).mem 0x01F := ⟨rfl, by decide +kernel⟩
theorem witness_Results_dout :
    exec .dfFwd256 (withBuf .din [9]) = .next (diffuseStep .v256 (withBuf .din [9])) ∧
    Memory.read (diffuseStep .v256 (withBuf .din [9])).mem 0x0C0 ≠ Memory.read (withBuf .din [9]).mem 0x0C0 :=
  ⟨rfl, by decide +kernel⟩
theorem witness_Results_boxa :
    exec .sbRnd (withOperands 0xB3 0) = .next (sbRndStep (withOperands 0xB3 0)) ∧
    Memory.read (sbRndStep (withOperands 0xB3 0)).mem 0x100 ≠ Memory.read (withOperands 0xB3 0).mem 0x100 := by
  refine ⟨rfl, ?_⟩
  have h : bitMix Config.params 0x00 = 0x00 := by unfold bitMix; cases Config.params.mixDir <;> rfl
  have g : gfInv Config.params 0x00 = 0x00 := by decide +kernel
  have read := (State.setBuf_storesExactly (withOperands 0xB3 0) .boxa 256 (roundBox Config.params 0xB3)).2.1 0 (by decide)
  change Memory.read ((withOperands 0xB3 0).setBuf .boxa 256 (roundBox Config.params 0xB3)).mem (Buf.boxa.base + 0) ≠ 0x00
  rw [read]
  have value : (roundBox Config.params 0xB3)[0] = bitMix Config.params (gfInv Config.params 0x00) ^^^ 0xB3 := by
    simp [roundBox, baseBox]
  rw [value, g, h]
  decide
theorem witness_Results_boxb :
    exec .sbInvb State.reset = .next (sbInvbStep State.reset) ∧
    Memory.read (sbInvbStep State.reset).mem 0x200 ≠ Memory.read State.reset.mem 0x200 := ⟨rfl, by decide +kernel⟩
theorem witness_SlotsChangeOnlyByTheirOwnNewAndFree :
    exec .ciNew256 State.reset = .next constructed ∧ constructed.ctx .v256 ≠ State.reset.ctx .v256 :=
  ⟨rfl, fun h => absurd (congrArg Ctx.valid h) (by decide)⟩
theorem witness_ValidSlotStaysValidUntilFreedOrReset :
    (constructed.ctx .v256).valid = true ∧ step constructed = .next constructed := ⟨rfl, rfl⟩
theorem witness_ValidSlotFreed :
    let s := { constructed with host := { pending := [.write 0x000 0x2B], readData := none } }
    (s.ctx .v256).valid = true ∧ ∃ t, step s = .next t ∧ (t.ctx .v256).valid = false := ⟨rfl, _, rfl, rfl⟩

/-- The reset state meets each part of the invariant, and its step with a command pending answers a next state. -/
theorem reset_slotOk (v : Variant) : slotOk (State.reset.ctx v) := by cases v <;> rfl

theorem witness_EveryStepKeepsTheMemoryCanonical :
    (withPending [.write 0x07F 0x12]).memoryOk ∧
    step (withPending [.write 0x07F 0x12]) = .next { State.reset with mem := [(0x07F, 0x12)] } :=
  ⟨⟨⟨List.Pairwise.nil, fun c h => by cases h⟩, fun c h => by cases h⟩, rfl⟩
theorem witness_EveryStepKeepsTheFaultRecordConsistent :
    (withPending [.write 0x000 0x43]).faultRecordOk ∧
    step (withPending [.write 0x000 0x43]) = .next (takeFault .illegalCommand 0x43 State.reset) :=
  ⟨.inl ⟨rfl, rfl, rfl⟩, rfl⟩
theorem witness_EveryStepKeepsSlotsConstructed :
    (∀ v, slotOk ((withPending [.write 0x000 0x28]).ctx v)) ∧
    step (withPending [.write 0x000 0x28]) = .next constructed := ⟨fun v => reset_slotOk v, rfl⟩
theorem witness_ValidSlotBoxesAreMutualInverses :
    slotOk (constructed.ctx .v256) ∧ (constructed.ctx .v256).valid = true := ⟨⟨_, rfl⟩, rfl⟩
theorem witness_ProgramsOfLegalCommandsNeverHalt :
    (withPending [.write 0x000 0x28, .reset, .write 0x005 0x00]).running ∧
    ∀ c, .write 0x000 c ∈ (withPending [.write 0x000 0x28, .reset, .write 0x005 0x00]).host.pending →
      ∃ i, decode c = .ok i ∧ ∀ v, i ≠ .ciEnc v ∧ i ≠ .ciDec v := by
  refine ⟨rfl, fun c hc => ?_⟩
  simp [withPending] at hc
  exact ⟨.ciNew256, by rw [hc]; decide, fun v => by cases v <;> decide⟩
theorem witness_IrreducibleReduction : c1.red ∈ irr ∧ gfMul c1 0x00 0x57 = 0x00 ∧ (0x53 : Byte) ≠ 0x00 := by decide
theorem witness_InverseIsTheLeastSolutionOrZero :
    gfMul c1 0x53 0xCA = 0x01 ∧ (∀ k : Fin 256, gfMul c1 0x00 (BitVec.ofNat 8 k.val) ≠ 0x01) ∧ c1.red ∈ irr ∧
    (0x53 : Byte) ≠ 0x00 := ⟨by decide, by decide +kernel, by decide, by decide⟩
theorem witness_running : State.reset.running ∧ (withOperands 0x57 0x83).running ∧ constructed.running := ⟨rfl, rfl, rfl⟩
theorem witness_InverseBoxTakesTheLastPreimage :
    (∀ k, boxAt identityBox k = boxAt identityBox 0xFF → k.toNat ≤ (0xFF : Byte).toNat) ∧
    (∀ i, boxAt (Vector.replicate 256 0x00) i ≠ 0x01) ∧ isPermutation identityBox :=
  ⟨fun k h => by rw [identityBox_apply, identityBox_apply] at h; rw [h], fun i => by simp [boxAt],
   by rw [isPermutation, funext identityBox_apply]; exact Function.bijective_id⟩
theorem witness_GeneratedBoxesArePermutations : c3.red ∈ irr ∧ isPermutation identityBox :=
  ⟨by decide, witness_InverseBoxTakesTheLastPreimage.2.2⟩
theorem witness_DigestMultipliesTheClampedBytes :
    (#v[1, 2, 3, 4, 5, 6, 7, 8] : Row).toList.Perm (#v[8, 7, 6, 5, 4, 3, 2, 1] : Row).toList ∧ c2.red ∈ irr := by decide
theorem witness_InverseBoxIsStored : (∀ i, boxAt identityBox i = i) ∧ c1.red ∈ irr := ⟨identityBox_apply, by decide⟩
theorem witness_DigestOfSubkey_single : (0x9C : Byte) ≠ 0x00 := by decide
theorem witness_RoundKey_boundaries : 0 < Variant.v256.bytes ∧ 30 + 1 < Variant.v256.bytes ∧ 62 + 1 < Variant.v512.bytes ∧
    0 < Variant.v256.rounds ∧ 14 + 1 < Variant.v256.rounds ∧ 18 + 1 < Variant.v512.rounds := by decide
theorem witness_DiffusionMoves_first : 0 < Variant.v384.rows ∧ (0 : Nat) < 8 ∧ 0 = (0 + 0 % 6) % 6 ∧ 0 = (0 + 6 - 0 % 6) % 6 := by
  decide
theorem witness_DiffusionMoves_last : 3 < Variant.v256.rows ∧ 7 < 8 ∧ 2 = (3 + 7 % 4) % 4 ∧ 0 = (3 + 4 - 7 % 4) % 4 := by
  decide
theorem witness_RotatedBlock_fixed_and_half :
    (0 % 8) % Variant.v256.rows = 0 ∧ (52 % 8) % Variant.v256.rows = 0 ∧ 2 * ((30 % 8) % Variant.v256.rows) = Variant.v256.rows ∧
    2 * ((43 % 8) % Variant.v384.rows) = Variant.v384.rows ∧ 2 * ((60 % 8) % Variant.v512.rows) = Variant.v512.rows := by
  decide
theorem witness_Diffusion_nonempty : 0 < Variant.v256.rows := by decide

/-- The states of the forward rounds of any instance and block meet the recurrence of the encryption clause. -/
theorem witness_CipherRuns_encrypt (v : Variant) (inst : Inst v) (blk : Block v) :
    ∃ m : Nat → Matrix v.rows, m 0 = toMatrix blk ∧ ∀ r : Fin v.rounds, m (r.val + 1) = Vector.ofFn fun j =>
      funcF (Vector.ofFn fun c => boxAt inst.sb[r][j] (diffuse (m r.val))[j][c]) (toMatrix inst.rk[r])[j] := by
  refine ⟨fun n => (List.range n).foldl (fun m r => if h : r < v.rounds then
    Vector.ofFn fun j => funcF (Vector.ofFn fun c => boxAt (inst.sb[r]'h)[j] (diffuse m)[j][c]) (toMatrix (inst.rk[r]'h))[j]
    else m) (toMatrix blk), rfl, fun r => ?_⟩
  simp [List.range_succ, r.isLt]

/-- The zero instance and the zero block meet the recurrence of the decryption clause. -/
theorem witness_CipherRuns_decrypt :
    ∃ m : Nat → Matrix Variant.v256.rows, m Variant.v256.rounds = toMatrix (Vector.replicate Variant.v256.bytes 0x00) ∧
      ∀ r : Fin Variant.v256.rounds, m r.val = diffuseInv (Vector.ofFn fun j => Vector.ofFn fun c =>
        boxAt (Inst.zero .v256).si[r][j] (funcFInv (m (r.val + 1))[j] (toMatrix (Inst.zero .v256).rk[r])[j])[c]) := by
  refine ⟨fun _ => Vector.replicate _ (Vector.replicate _ 0x00), by decide +kernel, fun r => ?_⟩
  simp only [Inst.zero, Fin.getElem_fin, Vector.getElem_replicate, boxAt]
  decide +kernel

theorem witness_DecryptUndoesEncrypt : c1.red ∈ irr ∧ c2.red ∈ irr ∧ c3.red ∈ irr := by decide
theorem witness_CipherBlockIsStoredToDout : constructed.running ∧ (constructed.ctx .v256).valid = true := ⟨rfl, rfl⟩
theorem witness_CipherResultDependsOnSlotAndBlockAlone :
    let u := { constructed with a := 0xFF }
    Instr.ciDec256 = .ciDec .v256 ∧ constructed.running ∧ u.running ∧ (constructed.ctx .v256).valid = true ∧
    u.ctx .v256 = constructed.ctx .v256 ∧
    Memory.readBytes u.mem 0x080 Variant.v256.bytes = Memory.readBytes constructed.mem 0x080 Variant.v256.bytes :=
  ⟨rfl, rfl, rfl, rfl, rfl, rfl⟩
theorem witness_NewConstructsItsSlot : State.reset.running ∧ Variant.v384 ≠ Variant.v256 := ⟨rfl, by decide⟩
theorem witness_FreeClearsItsSlot :
    State.reset.running ∧ (State.reset.ctx .v384).valid = false ∧ slotOk (State.reset.ctx .v384) :=
  ⟨rfl, rfl, reset_slotOk .v384⟩
theorem witness_FillMovesItsBytes :
    Buf.sk ∈ [Buf.row, .sk, .key, .din, .boxa] ∧ [1, 2, 3, 4, 5, 6, 7, 8].length ≤ Buf.sk.size ∧ 0x00F < Buf.sk.base ∧
    Buf.sk.base + 8 ≤ 0x018 := by decide
theorem witness_CopyMovesItsBytes :
    Buf.din ∈ [Buf.row, .sk, .key, .din, .boxa] ∧ Buf.din ≠ Buf.dout ∧ 64 ≤ Buf.din.size ∧ 64 ≤ Buf.dout.size ∧ 63 < 64 ∧
    0x07F < Buf.din.base ∧ Buf.din.base + 64 ≤ 0x0C0 := by decide

end Sys2Proof.Tests
end

section
/-! PROOFS. The reset event and the reset state (rules R31, R190). -/

namespace Sys2Proof.Machine

/-! ### The halted state is left by a reset only (rules R176, R190) -/

/-- A halted engine ignores every byte written to `CMD`, legal or not (rule R176). -/
theorem execByte_halted (c : Byte) {s : State} (h : s.err = true) : execByte c s = .next s := by
  cases hd : decode c with
  | ok i => simpa [execByte, hd] using exec_halted i h
  | error e => simp [execByte, hd, illegalCommand, h]

/-- No host write leaves the halted state: `CMD` is ignored there, and no RW cell holds `ERR`. -/
theorem hostWrite_err_of_halted {addr : Addr} {x : Byte} {s t : State} (h : hostWrite addr x s = .next t)
    (hs : s.err = true) : t.err = true := by
  rcases hostWrite_next h with ⟨-, hc⟩ | rfl | rfl | rfl | rfl | ⟨-, rfl⟩
  · rw [execByte_halted x hs] at hc
    cases hc
    exact hs
  all_goals exact hs

/-- A step from a halted state leaves it only when the host's next transaction is a reset. -/
theorem step_err_of_halted {s t : State} (h : step s = .next t) (hs : s.err = true)
    (hreset : s.host.pending.head? ≠ some .reset) : t.err = true := by
  rcases step_next h with ⟨-, rfl⟩ | ⟨rest, ⟨addr, -, rfl⟩ | ⟨hp, -⟩ | ⟨addr, x, -, hw⟩⟩
  · exact hs
  · exact hs
  · simp [hp] at hreset
  · exact hostWrite_err_of_halted hw hs

/-! ### The reset state (rule R31) -/

/-- Every memory cell of the reset state reads 0x00. -/
@[simp] theorem State.reset_read (addr : Nat) : Memory.read State.reset.mem addr = 0x00 := Memory.read_nil addr

/-- `BOXA` maps every byte to 0x00 after reset. -/
theorem State.reset_boxIn (b : Byte) : boxAt State.reset.boxIn b = 0x00 := by
  simp [boxAt, State.boxIn]

/-- A box with only one value is no permutation: it sends 0x00 and 0x01 to the same byte. -/
theorem not_isPermutation_of_constant {box : Box} {y : Byte} (h : ∀ b, boxAt box b = y) : ¬ isPermutation box :=
  fun hbij => absurd (hbij.injective ((h 0x00).trans (h 0x01).symm)) (by decide)

/-- A reset replaces every part of the state but the host's side of the port. -/
theorem resetEngine_with_reset_host (s : State) : { resetEngine s with host := State.reset.host } = State.reset := rfl

end Sys2Proof.Machine

open Sys2Proof Sys2Proof.Machine

/-- Settles O12: the cells of the reset state are read off its definition; that only a reset leaves the halted state is the
contrapositive of `step_err_of_halted`. -/
theorem resetZeroesEveryCell : Obligations.ResetZeroesEveryCell := by
  have leaves : ∀ s t : State, s.err = true → step s = .next t → t.err = false →
      s.host.pending.head? = some .reset := by
    intro s t hs hstep ht
    by_contra hreset
    simp [step_err_of_halted hstep hs hreset] at ht
  refine ⟨fun s => ⟨resetEngine s, rfl, resetEngine_with_reset_host s⟩, leaves, rfl,
    rfl, rfl, rfl, rfl, rfl, rfl, rfl, rfl, State.reset_read, not_isPermutation_of_constant State.reset_boxIn, fun v => ?_⟩
  rw [State.reset_ctx]
  exact ⟨rfl, rfl, rfl, rfl⟩

end

section
/-! PROOFS. Multiplication of bytes as multiplication modulo `P = x^8 + RED` (rules R80 to R84), and the ring laws it
gives (rule R86). The idea: `toRing`, which sends a byte to its residue class in GF(2)[x]/(P), is injective and turns
`^^^`, `xtime` and `gfMul` into the operations of that ring, so that each law of `gfMul` is a law of a commutative ring. -/

namespace Sys2Proof.Machine

/-! ### Shift and reduce: the XOR of the selected shifts -/

/-- The XOR of `xtime^i(f)` over the set bits `i < n` of `g` (rule R84). -/
def xorOfShifts (p : Params) (f g : Byte) (n : Nat) : Byte :=
  ((List.range n).filter fun i => g.getLsbD i).foldl (fun acc i => acc ^^^ (xtime p)^[i] f) 0x00

@[simp] theorem xorOfShifts_zero (p : Params) (f g : Byte) : xorOfShifts p f g 0 = 0#8 := rfl

theorem xorOfShifts_succ (p : Params) (f g : Byte) (n : Nat) :
    xorOfShifts p f g (n + 1) =
      if g.getLsbD n then xorOfShifts p f g n ^^^ (xtime p)^[n] f else xorOfShifts p f g n := by
  by_cases hg : g.getLsbD n <;> simp [xorOfShifts, List.range_succ, hg]

/-- `n` passes of the loop of rule R84 hold the XOR of the selected shifts and the next shift. -/
theorem foldl_gfMulPass (p : Params) (f g : Byte) (n : Nat) :
    (List.range n).foldl (gfMulPass p g) (0x00, f) = (xorOfShifts p f g n, (xtime p)^[n] f) := by
  induction n with
  | zero => rfl
  | succ n ih =>
    rw [List.range_succ, List.foldl_append, ih, xorOfShifts_succ, Function.iterate_succ_apply']
    rfl

theorem gfMul_eq_xorOfShifts (p : Params) (f g : Byte) : gfMul p f g = xorOfShifts p f g 8 :=
  congrArg Prod.fst (foldl_gfMulPass p f g 8)

/-- Multiplication reads no parameter but `RED`. -/
theorem gfMul_of_red_eq {p q : Params} (h : p.red = q.red) : gfMul p = gfMul q := by
  obtain ⟨red, dir⟩ := p
  obtain ⟨red', dir'⟩ := q
  obtain rfl : red = red' := h
  rfl

/-! ### Bytes as polynomials over GF(2) (rule R80) -/

/-- The polynomial a byte stands for (rule R80). -/
noncomputable def bytePoly (b : Byte) : Polynomial (ZMod 2) :=
  ∑ i ∈ Finset.range 8, if b.getLsbD i then Polynomial.X ^ i else 0

/-- The modulus `P = x^8 + RED` (rule R80). -/
noncomputable def modulus (p : Params) : Polynomial (ZMod 2) := Polynomial.X ^ 8 + bytePoly p.red

/-- Bit `i` is the coefficient of `x^i`. -/
@[simp] theorem coeff_bytePoly (b : Byte) (i : Nat) : (bytePoly b).coeff i = if b.getLsbD i then 1 else 0 := by
  have hbit (k : Nat) : (if b.getLsbD k then (Polynomial.X : Polynomial (ZMod 2)) ^ k else 0).coeff i =
      if i = k then (if b.getLsbD k then 1 else 0) else 0 := by
    by_cases hb : b.getLsbD k <;> simp [hb, Polynomial.coeff_X_pow]
  rw [bytePoly, Polynomial.finsetSum_coeff, Finset.sum_congr rfl fun k _ => hbit k, Finset.sum_ite_eq]
  by_cases hi : i < 8
  · simp [hi]
  · simp [hi, BitVec.getLsbD_of_ge b i (by omega)]

theorem bytePoly_injective : Function.Injective bytePoly := by
  intro a b hab
  refine BitVec.eq_of_getLsbD_eq fun i _ => ?_
  have hi : (if a.getLsbD i then (1 : ZMod 2) else 0) = if b.getLsbD i then 1 else 0 := by
    rw [← coeff_bytePoly, ← coeff_bytePoly, hab]
  cases ha : a.getLsbD i <;> cases hb : b.getLsbD i <;> simp [ha, hb] at hi ⊢

theorem bytePoly_degree_lt (b : Byte) : (bytePoly b).degree < 8 := by
  refine (Polynomial.degree_lt_iff_coeff_zero _ 8).2 fun i hi => ?_
  simp [BitVec.getLsbD_of_ge b i hi]

@[simp] theorem bytePoly_zero : bytePoly 0#8 = 0 := by ext i; simp

@[simp] theorem bytePoly_one : bytePoly 1#8 = 1 := by simp [bytePoly]

/-- XOR is addition: 1 + 1 = 0 in GF(2) (rule R81). -/
theorem bytePoly_xor (a b : Byte) : bytePoly (a ^^^ b) = bytePoly a + bytePoly b := by
  ext i
  by_cases ha : a.getLsbD i <;> by_cases hb : b.getLsbD i <;> simp [ha, hb, CharTwo.add_self_eq_zero]

/-- Multiplying by `x` shifts the byte left and keeps the top bit that the shift loses. -/
theorem X_mul_bytePoly (a : Byte) :
    Polynomial.X * bytePoly a = bytePoly (a <<< 1) + if a.getLsbD 7 then Polynomial.X ^ 8 else 0 := by
  simp only [bytePoly, Finset.mul_sum, mul_ite, mul_zero, ← pow_succ']
  rw [Finset.sum_range_succ, Finset.sum_range_succ' _ 7]
  have hlow : ∀ i ∈ Finset.range 7, (a <<< 1).getLsbD (i + 1) = a.getLsbD i := fun i hi => by
    have hi' : i + 1 < 8 := Nat.succ_lt_succ (Finset.mem_range.1 hi)
    rw [BitVec.getLsbD_shiftLeft]
    simp [hi']
  rw [Finset.sum_congr rfl fun i hi => by rw [← hlow i hi]]
  simp

theorem modulus_degree (p : Params) : (modulus p).degree = 8 := by
  rw [modulus, Polynomial.degree_add_eq_left_of_degree_lt] <;> simp [bytePoly_degree_lt]

/-! ### Bytes as residue classes modulo `P` -/

/-- The residue class of a byte in GF(2)[x]/(P). -/
noncomputable def toRing (p : Params) (b : Byte) : AdjoinRoot (modulus p) := AdjoinRoot.mk (modulus p) (bytePoly b)

/-- Different bytes are different residue classes: their difference has a degree below that of `P`. -/
theorem toRing_injective (p : Params) : Function.Injective (toRing p) := by
  intro a b hab
  have hdvd : modulus p ∣ bytePoly (a ^^^ b) := by
    rw [bytePoly_xor, ← CharTwo.sub_eq_add]
    exact AdjoinRoot.mk_eq_mk.1 hab
  have hzero : bytePoly (a ^^^ b) = bytePoly 0#8 := by
    rw [bytePoly_zero]
    exact Polynomial.eq_zero_of_dvd_of_degree_lt hdvd (by rw [modulus_degree]; exact bytePoly_degree_lt _)
  exact BitVec.xor_eq_zero_iff.1 (bytePoly_injective hzero)

@[simp] theorem toRing_zero (p : Params) : toRing p 0#8 = 0 := by simp [toRing]

@[simp] theorem toRing_one (p : Params) : toRing p 1#8 = 1 := by simp [toRing]

@[simp] theorem toRing_xor (p : Params) (a b : Byte) : toRing p (a ^^^ b) = toRing p a + toRing p b := by
  simp [toRing, bytePoly_xor]

/-- `x^8 = RED` modulo `P` (rule R80). -/
theorem root_pow_eight (p : Params) : AdjoinRoot.root (modulus p) ^ 8 = toRing p p.red := by
  rw [toRing, ← AdjoinRoot.mk_X, ← map_pow, AdjoinRoot.mk_eq_mk, CharTwo.sub_eq_add]
  exact dvd_rfl

/-- `xtime` multiplies by `x` modulo `P` (rule R83). -/
@[simp] theorem toRing_xtime (p : Params) (a : Byte) :
    toRing p (xtime p a) = AdjoinRoot.root (modulus p) * toRing p a := by
  have hshift : AdjoinRoot.root (modulus p) * toRing p a =
      toRing p (a <<< 1) + if a.getLsbD 7 then AdjoinRoot.root (modulus p) ^ 8 else 0 := by
    rw [toRing, toRing, ← AdjoinRoot.mk_X, ← map_mul, X_mul_bytePoly, map_add]
    split <;> simp
  rw [hshift, root_pow_eight, xtime, toRing_xor]
  split <;> simp

theorem toRing_xtime_iterate (p : Params) (f : Byte) (n : Nat) :
    toRing p ((xtime p)^[n] f) = AdjoinRoot.root (modulus p) ^ n * toRing p f := by
  induction n with
  | zero => simp
  | succ n ih => rw [Function.iterate_succ_apply', toRing_xtime, ih, pow_succ', mul_assoc]

theorem toRing_xorOfShifts (p : Params) (f g : Byte) (n : Nat) :
    toRing p (xorOfShifts p f g n) =
      toRing p f * ∑ i ∈ Finset.range n, if g.getLsbD i then AdjoinRoot.root (modulus p) ^ i else 0 := by
  induction n with
  | zero => simp
  | succ n ih =>
    rw [xorOfShifts_succ, Finset.sum_range_succ, mul_add, ← ih]
    split
    · rw [toRing_xor, toRing_xtime_iterate, mul_comm (toRing p f)]
    · simp

/-- `mul` multiplies modulo `P` (rule R84). -/
@[simp] theorem toRing_gfMul (p : Params) (f g : Byte) : toRing p (gfMul p f g) = toRing p f * toRing p g := by
  have hg : toRing p g = ∑ i ∈ Finset.range 8, if g.getLsbD i then AdjoinRoot.root (modulus p) ^ i else 0 := by
    simp only [toRing, bytePoly, map_sum, apply_ite (AdjoinRoot.mk (modulus p)), map_pow, AdjoinRoot.mk_X, map_zero]
  rw [gfMul_eq_xorOfShifts, toRing_xorOfShifts, hg]

/-! ### The ring laws of `mul` (rule R86 (c), (d)) -/

theorem gfMul_comm (p : Params) (f g : Byte) : gfMul p f g = gfMul p g f :=
  toRing_injective p (by simp [mul_comm])

theorem gfMul_assoc (p : Params) (f g h : Byte) : gfMul p (gfMul p f g) h = gfMul p f (gfMul p g h) :=
  toRing_injective p (by simp [mul_assoc])

theorem gfMul_xor (p : Params) (f g h : Byte) : gfMul p f (g ^^^ h) = gfMul p f g ^^^ gfMul p f h :=
  toRing_injective p (by simp [mul_add])

@[simp] theorem gfMul_zero (p : Params) (f : Byte) : gfMul p f 0#8 = 0#8 := toRing_injective p (by simp)

@[simp] theorem zero_gfMul (p : Params) (f : Byte) : gfMul p 0#8 f = 0#8 := toRing_injective p (by simp)

@[simp] theorem gfMul_one (p : Params) (f : Byte) : gfMul p f 1#8 = f := toRing_injective p (by simp)

@[simp] theorem one_gfMul (p : Params) (f : Byte) : gfMul p 1#8 f = f := toRing_injective p (by simp)

/-- Multiplication by the byte 0x02, the polynomial `x`, is `xtime`: only bit 1 selects a shift. -/
theorem gfMul_two (p : Params) (f : Byte) : gfMul p f 0x02 = xtime p f := by
  rw [gfMul_eq_xorOfShifts]
  simp [xorOfShifts_succ]

/-- The byte 0x80 stands for `x^7`, so `x` times it is `x^8 = RED`. -/
theorem two_gfMul_top (p : Params) : gfMul p 0x02 0x80 = p.red := by
  rw [gfMul_comm, gfMul_two]
  simp [xtime]

/-- A product of degree below 8 does not depend on `RED`: no shift it selects loses a top bit. -/
theorem three_gfMul_five (p : Params) : gfMul p 0x03 0x05 = 0x0F := by
  rw [gfMul_eq_xorOfShifts]
  simp [xorOfShifts_succ, xtime]

end Sys2Proof.Machine

open Sys2Proof Sys2Proof.Machine

/-- Settles O24: the loop holds the XOR of the selected shifts after every pass, and the residue class of `mul(f, g)` is
the product of the residue classes, which is the divisibility. -/
theorem mulIsPolynomialMultiplicationModuloP : Obligations.MulIsPolynomialMultiplicationModuloP := by
  intro p f g
  refine ⟨gfMul_eq_xorOfShifts p f g, AdjoinRoot.mk_eq_mk.1 ?_⟩
  rw [map_mul]
  exact (toRing_gfMul p f g).symm

end

section
/-! PROOFS. The inverse of a byte (rule R85): the ascending search finds the least solution, and for `RED` in `IRR` every
non-zero byte has one, because it is a power of a byte of order 255. -/

namespace Sys2Proof.Machine

/-! ### The ascending search -/

/-- The search of rule R85 as a search for the number of the byte. -/
theorem gfInv_eq_range_find (p : Params) (f : Byte) :
    gfInv p f =
      (((List.range 256).find? fun n => gfMul p f (BitVec.ofNat 8 n) == 0x01).map (BitVec.ofNat 8)).getD 0x00 := by
  rw [gfInv, allBytes, List.find?_map]
  rfl

/-- Where some byte solves `mul(f, x) = 1`, the search returns a solution, and none is smaller. -/
theorem gfInv_least {p : Params} {f x : Byte} (hx : gfMul p f x = 0x01) :
    gfMul p f (gfInv p f) = 0x01 ∧ (gfInv p f).toNat ≤ x.toNat := by
  rw [gfInv_eq_range_find]
  cases hfind : (List.range 256).find? fun n => gfMul p f (BitVec.ofNat 8 n) == 0x01 with
  | none =>
    have hnone := List.find?_range_eq_none.1 hfind x.toNat x.isLt
    simp [hx] at hnone
  | some n =>
    obtain ⟨hn, -, hbelow⟩ := List.find?_range_eq_some.1 hfind
    refine ⟨by simpa using hn, (BitVec.toNat_ofNat n 8 ▸ Nat.mod_le n _).trans ?_⟩
    by_contra! hlt
    simpa [hx] using hbelow x.toNat hlt

/-- Where no byte solves `mul(f, x) = 1`, the search falls through to 0x00. -/
theorem gfInv_of_unsolvable {p : Params} {f : Byte} (hf : ∀ x, gfMul p f x ≠ 0x01) : gfInv p f = 0x00 := by
  have hfind : (allBytes.find? fun x => gfMul p f x == 0x01) = none :=
    List.find?_eq_none.2 fun x _ => by simpa using hf x
  rw [gfInv, hfind]
  rfl

theorem gfInv_zero (p : Params) : gfInv p 0x00 = 0x00 := gfInv_of_unsolvable fun x => by simp

theorem gfInv_one (p : Params) : gfInv p 0x01 = 0x01 := by
  rw [← one_gfMul p (gfInv p 0x01)]
  exact (gfInv_least (gfMul_one p 0x01)).1

/-- A byte has at most one inverse, for every `RED`. -/
theorem gfMul_eq_one_unique {p : Params} {f x y : Byte} (hx : gfMul p f x = 0x01) (hy : gfMul p f y = 0x01) :
    x = y := by
  calc
    x = gfMul p x 0x01 := (gfMul_one p x).symm
    _ = gfMul p (gfMul p f x) y := by rw [← hy, ← gfMul_assoc, gfMul_comm p x f]
    _ = gfMul p 0x01 y := by rw [hx]
    _ = y := one_gfMul p y

/-! ### Powers of a byte -/

/-- `f` multiplied by itself `n` times. -/
def gfPow (p : Params) (f : Byte) : Nat → Byte
  | 0 => 0x01
  | n + 1 => gfMul p (gfPow p f n) f

@[simp] theorem toRing_gfPow (p : Params) (f : Byte) (n : Nat) : toRing p (gfPow p f n) = toRing p f ^ n := by
  induction n with
  | zero => exact (toRing_one p).trans (pow_zero _).symm
  | succ n ih => rw [gfPow, toRing_gfMul, ih, pow_succ]

theorem gfPow_of_red_eq {p q : Params} (h : p.red = q.red) : gfPow p = gfPow q := by
  funext f n
  induction n with
  | zero => rfl
  | succ n ih => rw [gfPow, gfPow, ih, gfMul_of_red_eq h]

/-- The powers of `g` that show it to have order 255 = 3 · 5 · 17: `g^255` is 1, and `g^85`, `g^51`, `g^15` are not. -/
def hasOrder255 (p : Params) (g : Byte) : Prop :=
  gfPow p (gfPow p (gfPow p g 17) 3) 5 = 0x01 ∧ gfPow p (gfPow p g 17) 5 ≠ 0x01 ∧
    gfPow p (gfPow p g 17) 3 ≠ 0x01 ∧ gfPow p (gfPow p g 3) 5 ≠ 0x01

theorem hasOrder255.orderOf_eq {p : Params} {g : Byte} (h : hasOrder255 p g) : orderOf (toRing p g) = 255 := by
  obtain ⟨h255, h85, h51, h15⟩ := h
  have eq_one (f : Byte) : f = 0x01 ↔ toRing p f = 1 := by
    rw [← toRing_one p]
    exact (toRing_injective p).eq_iff.symm
  simp only [ne_eq, eq_one, toRing_gfPow, ← pow_mul] at h255 h85 h51 h15
  refine orderOf_eq_of_pow_and_pow_div_prime (by norm_num) h255 fun q hq hdvd => ?_
  have hcases : q = 3 ∨ q = 5 ∨ q = 17 := by
    rw [show 255 = 3 * (5 * 17) by norm_num, hq.dvd_mul, hq.dvd_mul] at hdvd
    simpa [Nat.prime_dvd_prime_iff_eq hq, Nat.prime_three, Nat.prime_five, show Nat.Prime 17 by norm_num] using hdvd
  rcases hcases with rfl | rfl | rfl
  exacts [h85, h51, h15]

theorem hasOrder255.pow_255 {p : Params} {g : Byte} (h : hasOrder255 p g) : gfPow p g 255 = 0x01 :=
  toRing_injective p (by rw [toRing_gfPow, ← h.orderOf_eq, pow_orderOf_eq_one]; exact (toRing_one p).symm)

/-- The powers below 255 of a byte of order 255 are distinct. -/
theorem hasOrder255.gfPow_injOn {p : Params} {g : Byte} (h : hasOrder255 p g) :
    Set.InjOn (gfPow p g) (Finset.range 255) := by
  intro m hm n hn hmn
  refine pow_injOn_Iio_orderOf (x := toRing p g) ?_ ?_ ?_
  · simpa [h.orderOf_eq] using hm
  · simpa [h.orderOf_eq] using hn
  · simp only [← toRing_gfPow, hmn]

/-- Where `g^255` is 1, `g^(255-n)` is an inverse of `g^n`. -/
theorem gfPow_mul_gfPow_sub {p : Params} {g : Byte} (hg : gfPow p g 255 = 0x01) {n : Nat} (hn : n ≤ 255) :
    gfMul p (gfPow p g n) (gfPow p g (255 - n)) = 0x01 := by
  rw [← hg]
  exact toRing_injective p (by simp [← pow_add, Nat.add_sub_of_le hn])

/-- The non-zero bytes, of which there are 255, are the powers of a byte of order 255. -/
theorem hasOrder255.exists_gfPow_eq {p : Params} {g : Byte} (h : hasOrder255 p g) {f : Byte} (hf : f ≠ 0x00) :
    ∃ n ≤ 255, gfPow p g n = f := by
  have hne : Set.MapsTo (gfPow p g) (Finset.range 255) ((Finset.univ : Finset Byte).erase 0x00) := by
    intro n hn
    have hmul := gfPow_mul_gfPow_sub h.pow_255 (Finset.mem_range.1 hn).le
    refine Finset.mem_coe.2 (Finset.mem_erase.2 ⟨fun h0 => ?_, Finset.mem_univ _⟩)
    rw [h0] at hmul
    exact absurd ((zero_gfMul p _).symm.trans hmul) (by decide)
  have hcard : ((Finset.univ : Finset Byte).erase 0x00).card ≤ (Finset.range 255).card := by
    rw [Finset.card_erase_of_mem (Finset.mem_univ _), Finset.card_univ, Fintype.card_congr BitVec.equivFin.toEquiv]
    simp
  obtain ⟨n, hn, hgn⟩ := Finset.surjOn_of_injOn_of_card_le _ hne h.gfPow_injOn hcard
    (Finset.mem_coe.2 (Finset.mem_erase.2 ⟨hf, Finset.mem_univ f⟩))
  exact ⟨n, (Finset.mem_range.1 hn).le, hgn⟩

/-- One of the bytes 0x02, 0x06, 0x09 has order 255 for each of the 30 bytes of `IRR`, here at one `MIX_DIR`. -/
theorem exists_hasOrder255_left :
    ∀ red ∈ irr, ∃ g ∈ ([0x02, 0x06, 0x09] : List Byte), hasOrder255 { red := red, mixDir := .left } g := by
  unfold hasOrder255
  decide +kernel

theorem exists_hasOrder255 {p : Params} (hp : p.red ∈ irr) : ∃ g, hasOrder255 p g := by
  obtain ⟨g, -, hg⟩ := exists_hasOrder255_left p.red hp
  have hpow : gfPow p = gfPow { red := p.red, mixDir := .left } := gfPow_of_red_eq rfl
  exact ⟨g, by rwa [hasOrder255, hpow]⟩

/-- With `RED` in `IRR` every non-zero byte has exactly one inverse (rule R5). -/
theorem existsUnique_gfMul_eq_one {p : Params} {f : Byte} (hp : p.red ∈ irr) (hf : f ≠ 0x00) :
    ∃! x, gfMul p f x = 0x01 := by
  obtain ⟨g, hg⟩ := exists_hasOrder255 hp
  obtain ⟨n, hn, rfl⟩ := hg.exists_gfPow_eq hf
  have hinv := gfPow_mul_gfPow_sub hg.pow_255 hn
  exact ⟨_, hinv, fun y hy => gfMul_eq_one_unique hy hinv⟩

end Sys2Proof.Machine

open Sys2Proof Sys2Proof.Machine

/-- Settles O28: the search finds the least solution; the inverse of `g^n` with `g` of order 255 is `g^(255-n)`. -/
theorem inverseIsTheLeastSolutionOrZero : Obligations.InverseIsTheLeastSolutionOrZero :=
  fun p _ => ⟨fun _ => gfInv_least, gfInv_of_unsolvable, gfInv_zero p, gfInv_one p, existsUnique_gfMul_eq_one⟩

end

section
/-! PROOFS. The field commands `GF.ADD`, `GF.SUB`, `GF.MUL` (rules R88 to R90). -/

namespace Sys2Proof.Machine

/-- A command that needs no slot has its effect in every running state. -/
theorem exec_running {i : Instr} (hi : slotNeeded i = none) {s : State} (h : s.running) :
    exec i s = .next (effectOf i s) := by
  rw [exec_eq_command hi, command_running h]

theorem gfAdd_self (f : Byte) : gfAdd f f = 0x00 := BitVec.xor_self

theorem gfAdd_zero (f : Byte) : gfAdd f 0x00 = f := BitVec.xor_zero

theorem zero_gfSub (f : Byte) : gfSub 0x00 f = f := BitVec.zero_xor

end Sys2Proof.Machine

open Sys2Proof Sys2Proof.Machine

/-- Settles O30: both effects store the XOR of the operands to `Y`. -/
theorem addAndSubWriteTheXorOfTheOperands : Obligations.AddAndSubWriteTheXorOfTheOperands :=
  ⟨rfl, rfl, fun _ hs => ⟨exec_running rfl hs, exec_running rfl hs⟩,
    fun f => ⟨gfAdd_self f, gfAdd_zero f, zero_gfSub f⟩, rfl, rfl⟩

/-- Settles O31: the effect stores the product to `Y`; the corner cases are ring laws. -/
theorem mulWritesTheProductOfTheOperands : Obligations.MulWritesTheProductOfTheOperands :=
  ⟨rfl, fun _ hs => exec_running rfl hs,
    fun p f g => ⟨gfMul_zero p f, zero_gfMul p f, gfMul_one p f, one_gfMul p f, gfMul_comm p f g, two_gfMul_top p,
      three_gfMul_five p⟩,
    fun d => by cases d <;> decide⟩

end

section
/-! PROOFS. `bit_mix` bit by bit (rule R100). The idea: a rotation moves every bit from one place, so `bit_mix` is an XOR
of five bits; applied twice, all of them cancel but one, so `bit_mix` is injective. -/

namespace Sys2Proof.Machine

/-! ### The rotations of rule R100 -/

/-- Bit `k` of a left rotation by `n` was bit `k - n` (rule R7). -/
theorem getLsbD_rotl8 (b : Byte) {n k : Nat} (hn : n < 8) (hk : k < 8) :
    (rotl8 b n).getLsbD k = b.getLsbD ((k + (8 - n)) % 8) := by
  rw [rotl8]
  split
  case isTrue hzero => simp [hzero, Nat.mod_eq_of_lt hk]
  case isFalse hpos =>
    by_cases hwrap : k < n
    · have hsource : (k + (8 - n)) % 8 = 8 - n + k := by omega
      simp [hk, hwrap, hsource]
    · have hsource : (k + (8 - n)) % 8 = k - n := by omega
      have hout : b.getLsbD (8 - n + k) = false := BitVec.getLsbD_of_ge b _ (by omega)
      simp [-BitVec.getLsbD_eq_getElem, hk, hwrap, hsource, hout]

/-- Bit `k` of a right rotation by `n` was bit `k + n` (rule R7). -/
theorem getLsbD_rotr8 (b : Byte) {n k : Nat} (hn : n < 8) (hk : k < 8) :
    (rotr8 b n).getLsbD k = b.getLsbD ((k + n) % 8) := by
  rw [rotr8, getLsbD_rotl8 b (Nat.mod_lt _ (by decide)) hk]
  congr 1
  omega

/-- The place a rotation by `n` takes bit `k` from. -/
def mixSource : MixDir → Nat → Nat → Nat
  | .left, n, k => (k + (8 - n)) % 8
  | .right, n, k => (k + n) % 8

theorem getLsbD_mixRot (d : MixDir) (b : Byte) {n k : Nat} (hn : n < 8) (hk : k < 8) :
    (mixRot d b n).getLsbD k = b.getLsbD (mixSource d n k) := by
  cases d with
  | left => exact getLsbD_rotl8 b hn hk
  | right => exact getLsbD_rotr8 b hn hk

theorem mixSource_lt (d : MixDir) (n k : Nat) : mixSource d n k < 8 := by
  cases d <;> exact Nat.mod_lt _ (by decide)

/-- Rotations in one direction add up modulo 8. -/
theorem mixRot_mixRot (d : MixDir) (b : Byte) {m n : Nat} (hm : m < 8) (hn : n < 8) :
    mixRot d (mixRot d b m) n = mixRot d b ((m + n) % 8) := by
  refine BitVec.eq_of_getLsbD_eq fun k hk => ?_
  rw [getLsbD_mixRot d _ hn hk, getLsbD_mixRot d _ hm (mixSource_lt d n k),
    getLsbD_mixRot d _ (Nat.mod_lt _ (by decide)) hk]
  congr 1
  cases d <;> simp only [mixSource] <;> omega

@[simp] theorem mixRot_by_zero (d : MixDir) (b : Byte) : mixRot d b 0 = b := by cases d <;> rfl

theorem mixRot_xor (d : MixDir) (a b : Byte) {n : Nat} (hn : n < 8) :
    mixRot d (a ^^^ b) n = mixRot d a n ^^^ mixRot d b n := by
  refine BitVec.eq_of_getLsbD_eq fun k hk => ?_
  simp only [BitVec.getLsbD_xor, getLsbD_mixRot d _ hn hk]

/-! ### `bit_mix` -/

/-- Bit `k` of `bit_mix(b)` is the XOR of bit `k` and the four bits the rotations bring to it. -/
theorem getLsbD_bitMix (p : Params) (b : Byte) {k : Nat} (hk : k < 8) :
    (bitMix p b).getLsbD k =
      (b.getLsbD k ^^ b.getLsbD (mixSource p.mixDir 2 k) ^^ b.getLsbD (mixSource p.mixDir 4 k) ^^
        b.getLsbD (mixSource p.mixDir 6 k) ^^ b.getLsbD (mixSource p.mixDir 7 k)) := by
  simp only [bitMix, BitVec.getLsbD_xor, getLsbD_mixRot, hk, Nat.reduceLT]

theorem xor_swap (a b c : Byte) : a ^^^ (b ^^^ c) = b ^^^ (a ^^^ c) := by ac_rfl

/-- `bit_mix` applied twice is the rotation by 6: of the 25 rotations of the byte, 24 cancel in pairs. -/
theorem bitMix_bitMix (p : Params) (b : Byte) : bitMix p (bitMix p b) = mixRot p.mixDir b 6 := by
  simp only [bitMix, mixRot_xor, mixRot_mixRot, Nat.reduceLT, Nat.reduceAdd, Nat.reduceMod, mixRot_by_zero]
  simp [BitVec.xor_assoc, BitVec.xor_comm, xor_swap]

theorem bitMix_injective (p : Params) : Function.Injective (bitMix p) := by
  intro a b hab
  have hrot : mixRot p.mixDir a 6 = mixRot p.mixDir b 6 := by rw [← bitMix_bitMix, hab, bitMix_bitMix]
  calc
    a = mixRot p.mixDir (mixRot p.mixDir a 6) 2 := by simp [mixRot_mixRot]
    _ = mixRot p.mixDir (mixRot p.mixDir b 6) 2 := by rw [hrot]
    _ = b := by simp [mixRot_mixRot]

theorem bitMix_zero (p : Params) : bitMix p 0x00 = 0x00 := by
  obtain ⟨red, dir⟩ := p
  cases dir <;> simp [bitMix, mixRot, rotl8, rotr8]

theorem bitMix_ones (p : Params) : bitMix p 0xFF = 0xFF := by
  obtain ⟨red, dir⟩ := p
  cases dir <;> simp [bitMix, mixRot, rotl8, rotr8]

theorem bitMix_left_one (red : Byte) : bitMix { red := red, mixDir := .left } 0x01 = 0xD5 := by
  simp [bitMix, mixRot, rotl8]

theorem bitMix_right_one (red : Byte) : bitMix { red := red, mixDir := .right } 0x01 = 0x57 := by
  simp [bitMix, mixRot, rotl8, rotr8]

end Sys2Proof.Machine

open Sys2Proof Sys2Proof.Machine

/-- Settles O33: each bit is that of `getLsbD_bitMix`; the printed values are computed. -/
theorem bitMixXorsTheFourRotations : Obligations.BitMixXorsTheFourRotations :=
  ⟨fun _ b _ hk => ⟨getLsbD_bitMix _ b hk, getLsbD_bitMix _ b hk⟩,
    fun red => ⟨bitMix_left_one red, bitMix_right_one red, by simp [bitMix, mixRot, rotl8],
      by simp [bitMix, mixRot, rotl8, rotr8]⟩,
    fun p => ⟨bitMix_zero p, bitMix_ones p⟩⟩

end

section
/-! PROOFS. The boxes and their inverses (rules R101 to R103). The idea: once the scatter of rule R103 has written an
index, only a later index with the same image writes that entry again. -/

namespace Sys2Proof.Machine

/-! ### Boxes as functions on bytes -/

/-- Two boxes with the same entries are one box. -/
theorem box_ext {box box' : Box} (h : ∀ b, boxAt box b = boxAt box' b) : box = box' := by
  ext1 i hi
  exact h (BitVec.ofFin ⟨i, hi⟩)

/-! ### The base box and the round boxes (rules R101, R102) -/

@[simp] theorem boxAt_baseBox (p : Params) (i : Byte) : boxAt (baseBox p) i = bitMix p (gfInv p i) := by
  simp [boxAt, baseBox]

@[simp] theorem boxAt_roundBox (p : Params) (mask i : Byte) :
    boxAt (roundBox p mask) i = boxAt (baseBox p) i ^^^ mask := by
  simp [boxAt, roundBox]

theorem baseBox_at_zero (p : Params) : boxAt (baseBox p) 0x00 = 0x00 := by
  rw [boxAt_baseBox, gfInv_zero, bitMix_zero]

theorem baseBox_at_one (p : Params) : boxAt (baseBox p) 0x01 = bitMix p 0x01 := by
  rw [boxAt_baseBox, gfInv_one]

theorem roundBox_of_zero_mask (p : Params) : roundBox p 0x00 = baseBox p :=
  box_ext fun b => by simp

/-! ### The inverse box (rule R103) -/

/-- One pass writes the index to the entry of its image and leaves every other entry. -/
theorem boxAt_inverseBoxPass (box out : Box) (i : Fin 256) (j : Byte) :
    boxAt (inverseBoxPass box out i) j = if box[i] = j then BitVec.ofNat 8 i.val else boxAt out j := by
  simp only [boxAt, inverseBoxPass, Vector.getElem_set, BitVec.toNat_inj]

/-- Passes over indices that do not map to `j` leave entry `j`. -/
theorem boxAt_foldl_inverseBoxPass_of_unhit {box : Box} {j : Byte} {is : List (Fin 256)} (h : ∀ i ∈ is, box[i] ≠ j)
    (out : Box) : boxAt (is.foldl (inverseBoxPass box) out) j = boxAt out j := by
  induction is generalizing out with
  | nil => rfl
  | cons i is ih =>
    obtain ⟨hi, his⟩ := List.forall_mem_cons.1 h
    rw [List.foldl_cons, ih his, boxAt_inverseBoxPass, if_neg hi]

/-- After passes over ascending indices the entry of an image holds the largest of its preimages. -/
theorem boxAt_foldl_inverseBoxPass_of_last {box : Box} {i : Fin 256} {is : List (Fin 256)}
    (hasc : is.Pairwise (· < ·)) (hi : i ∈ is) (hlast : ∀ k ∈ is, box[k] = box[i] → k ≤ i) (out : Box) :
    boxAt (is.foldl (inverseBoxPass box) out) box[i] = BitVec.ofNat 8 i.val := by
  induction is generalizing out with
  | nil => cases hi
  | cons k is ih =>
    obtain ⟨hk, hasc⟩ := List.pairwise_cons.1 hasc
    rcases List.mem_cons.1 hi with rfl | hi
    · have hunhit : ∀ j ∈ is, box[j] ≠ box[i] := fun j hj heq => (hk j hj).not_ge (hlast j (List.mem_cons_of_mem _ hj) heq)
      rw [List.foldl_cons, boxAt_foldl_inverseBoxPass_of_unhit hunhit, boxAt_inverseBoxPass, if_pos rfl]
    · exact ih hasc hi (fun j hj => hlast j (List.mem_cons_of_mem _ hj)) _

/-- Of the indices with one image the largest wins. -/
theorem inverseBox_of_last {box : Box} {i : Byte} (hlast : ∀ k, boxAt box k = boxAt box i → k.toNat ≤ i.toNat) :
    boxAt (inverseBox box) (boxAt box i) = i := by
  have hlast' : ∀ k ∈ List.finRange 256, box[k] = box[i.toFin] → k ≤ i.toFin := fun k _ => hlast (BitVec.ofFin k)
  exact (boxAt_foldl_inverseBoxPass_of_last (List.pairwise_lt_finRange 256) (List.mem_finRange _) hlast' _).trans
    (BitVec.ofNat_toNat 8 i)

/-- Entries never hit stay 0x00. -/
theorem inverseBox_of_unhit {box : Box} {j : Byte} (hj : ∀ i, boxAt box i ≠ j) : boxAt (inverseBox box) j = 0x00 := by
  rw [inverseBox, boxAt_foldl_inverseBoxPass_of_unhit fun i _ => hj (BitVec.ofFin i)]
  simp [boxAt]

/-- An index whose image no other index has is always the last one. -/
theorem inverseBox_of_injective {box : Box} (hbox : Function.Injective (boxAt box)) (i : Byte) :
    boxAt (inverseBox box) (boxAt box i) = i :=
  inverseBox_of_last fun k hk => by rw [hbox hk]

/-- Every entry of the all-zero box is 0x00, so 0xFF is the last preimage of 0x00 and no other byte has one. -/
theorem inverseBox_of_zeros (j : Byte) :
    boxAt (inverseBox (Vector.replicate 256 0x00)) j = if j = 0x00 then 0xFF else 0x00 := by
  have hzeros (b : Byte) : boxAt (Vector.replicate 256 0x00) b = 0x00 := by simp [boxAt]
  split
  case isTrue hj =>
    rw [hj, ← hzeros 0xFF]
    exact inverseBox_of_last fun k _ => Nat.le_of_lt_succ k.isLt
  case isFalse hj => exact inverseBox_of_unhit fun i hi => hj (hi.symm.trans (hzeros i))

theorem inverseBox_of_identity {box : Box} (hid : ∀ i, boxAt box i = i) : inverseBox box = box := by
  have hinj : Function.Injective (boxAt box) := fun a b hab => by rwa [hid, hid] at hab
  refine box_ext fun b => ?_
  calc
    boxAt (inverseBox box) b = boxAt (inverseBox box) (boxAt box b) := by rw [hid]
    _ = b := inverseBox_of_injective hinj b
    _ = boxAt box b := (hid b).symm

/-! ### The base box is injective (rule R105) -/

theorem gfMul_gfInv {p : Params} (hp : p.red ∈ irr) {f : Byte} (hf : f ≠ 0x00) : gfMul p f (gfInv p f) = 0x01 :=
  have ⟨_, hx, _⟩ := existsUnique_gfMul_eq_one hp hf
  (gfInv_least hx).1

/-- Bytes with the same inverse are equal: 0x00 is the only byte that its inverse does not invert. -/
theorem gfInv_injective {p : Params} (hp : p.red ∈ irr) : Function.Injective (gfInv p) := by
  have hzero : ∀ f, gfInv p f = 0x00 → f = 0x00 := fun f h => by
    by_contra hf
    have hinv := gfMul_gfInv hp hf
    rw [h] at hinv
    exact absurd ((gfMul_zero p f).symm.trans hinv) (by decide)
  intro f g hfg
  by_cases hf : f = 0x00
  · rw [hf, gfInv_zero] at hfg
    rw [hf, hzero g hfg.symm]
  · have hg : g ≠ 0x00 := fun hg => hf (hzero f (by rw [hfg, hg, gfInv_zero]))
    refine gfMul_eq_one_unique (p := p) (f := gfInv p f) ?_ ?_
    · rw [gfMul_comm, gfMul_gfInv hp hf]
    · rw [gfMul_comm, hfg, gfMul_gfInv hp hg]

theorem baseBox_injective {p : Params} (hp : p.red ∈ irr) : Function.Injective (boxAt (baseBox p)) := by
  have hcomp : boxAt (baseBox p) = bitMix p ∘ gfInv p := funext (boxAt_baseBox p)
  rw [hcomp]
  exact (bitMix_injective p).comp (gfInv_injective hp)

/-- With `RED` in `IRR` the base box inverts back (rule R105). -/
theorem inverseBox_baseBox {p : Params} (hp : p.red ∈ irr) (i : Byte) :
    boxAt (inverseBox (baseBox p)) (boxAt (baseBox p) i) = i :=
  inverseBox_of_injective (baseBox_injective hp) i

end Sys2Proof.Machine

open Sys2Proof Sys2Proof.Machine

/-- Settles O34: an entry is written last by the largest preimage of its index, and by nothing where there is none. -/
theorem inverseBoxTakesTheLastPreimage : Obligations.InverseBoxTakesTheLastPreimage :=
  fun _ => ⟨fun _ => inverseBox_of_last, fun _ => inverseBox_of_unhit, fun hbox => inverseBox_of_injective hbox.injective⟩

end

section
/-! PROOFS. `digest` (rule R104). The idea: in the ring of residue classes the digest is the product of the list of
clamped bytes, so that its order and its constant factors are matters of list products. -/

namespace Sys2Proof.Machine

theorem clampOne_eq (b : Byte) : clampOne b = if b = 0x00 then 0x01 else b := by
  have hlt : b.toNat < (0x01 : Byte).toNat ↔ b = 0x00 := by
    rw [BitVec.toNat_eq]
    exact Nat.lt_one_iff
  simp only [clampOne]
  exact if_congr hlt rfl rfl

theorem clampOne_ne_zero (b : Byte) : clampOne b ≠ 0x00 := by
  rw [clampOne_eq]
  split
  · decide
  · assumption

/-- The byte 0x00 counts as 0x01, which is no factor. -/
theorem toRing_clampOne_zero (p : Params) : toRing p (clampOne 0x00) = 1 := toRing_one p

theorem toRing_foldl_gfMul (p : Params) (bs : List Byte) (d : Byte) :
    toRing p (bs.foldl (fun d b => gfMul p d (clampOne b)) d) =
      toRing p d * (bs.map fun b => toRing p (clampOne b)).prod := by
  induction bs generalizing d with
  | nil => simp
  | cons b bs ih => rw [List.foldl_cons, ih, toRing_gfMul, List.map_cons, List.prod_cons, mul_assoc]

/-- The digest is the product of the clamped bytes modulo `P`. -/
theorem toRing_digest (p : Params) (seg : Row) :
    toRing p (digest p seg) = (seg.toList.map fun b => toRing p (clampOne b)).prod := by
  rw [digest, toRing_foldl_gfMul]
  exact (congrArg (· * _) (toRing_one p)).trans (one_mul _)

theorem digest_perm (p : Params) {seg seg' : Row} (h : seg.toList.Perm seg'.toList) :
    digest p seg = digest p seg' :=
  toRing_injective p (by rw [toRing_digest, toRing_digest, (h.map _).prod_eq])

/-- With `RED` in `IRR` a product is 0x00 only if a factor is. -/
theorem gfMul_ne_zero {p : Params} (hp : p.red ∈ irr) {f g : Byte} (hf : f ≠ 0x00) (hg : g ≠ 0x00) :
    gfMul p f g ≠ 0x00 := by
  intro hfg
  refine hg ?_
  calc
    g = gfMul p 0x01 g := (one_gfMul p g).symm
    _ = gfMul p (gfInv p f) (gfMul p f g) := by rw [← gfMul_gfInv hp hf, gfMul_comm p f, gfMul_assoc]
    _ = gfMul p (gfInv p f) 0x00 := by rw [hfg]
    _ = 0x00 := gfMul_zero p _

theorem digest_ne_zero {p : Params} (hp : p.red ∈ irr) (seg : Row) : digest p seg ≠ 0x00 :=
  List.foldlRecOn seg.toList _ (motive := (· ≠ 0x00)) (by decide) fun _ hd b _ =>
    gfMul_ne_zero hp hd (clampOne_ne_zero b)

theorem toRing_digest_replicate (p : Params) (b : Byte) :
    toRing p (digest p (Vector.replicate 8 b)) = toRing p (clampOne b) ^ 8 := by
  rw [toRing_digest, Vector.toList_replicate, List.map_replicate, List.prod_replicate]

theorem digest_zeros (p : Params) : digest p (Vector.replicate 8 0x00) = 0x01 := by
  refine toRing_injective p ?_
  rw [toRing_digest_replicate, toRing_clampOne_zero, one_pow]
  exact (toRing_one p).symm

/-- Eight bytes 0x01 have the clamped bytes of eight bytes 0x00. -/
theorem digest_ones (p : Params) : digest p (Vector.replicate 8 0x01) = 0x01 := digest_zeros p

/-- The byte 0x02 stands for `x`, and `x^8` is `RED` modulo `P` (rule R80). -/
theorem digest_twos (p : Params) : digest p (Vector.replicate 8 0x02) = p.red :=
  toRing_injective p (by
    have htwo : toRing p 0x02 = AdjoinRoot.root (modulus p) := by
      rw [← one_gfMul p 0x02, gfMul_two, toRing_xtime, toRing_one, mul_one]
    rw [toRing_digest_replicate, ← root_pow_eight, ← htwo]
    rfl)

/-- A single byte among zeros is the only factor that is not 0x01. -/
theorem digest_single (p : Params) (i : Fin 8) {b : Byte} (hb : b ≠ 0x00) :
    digest p ((Vector.replicate 8 0x00).set i b) = b := by
  have hclamp : clampOne b = b := by rw [clampOne_eq, if_neg hb]
  refine toRing_injective p ?_
  rw [toRing_digest, Vector.toList_set, Vector.toList_replicate, List.map_set, List.map_replicate, List.prod_set,
    toRing_clampOne_zero, hclamp]
  simp only [List.take_replicate, List.drop_replicate, List.prod_replicate, List.length_replicate, one_pow, i.isLt,
    if_true, one_mul, mul_one]

end Sys2Proof.Machine

open Sys2Proof Sys2Proof.Machine

/-- Settles O36: the loop over eight bytes is the nested product, the product in the ring does not depend on the order,
and no product of non-zero bytes is 0x00 for `RED` in `IRR`. -/
theorem digestMultipliesTheClampedBytes : Obligations.DigestMultipliesTheClampedBytes := by
  refine ⟨fun p k0 k1 k2 k3 k4 k5 k6 k7 => ?_, fun p _ _ => digest_perm p, fun _ seg hp => digest_ne_zero hp seg,
    fun p => ⟨digest_zeros p, digest_twos p⟩⟩
  simp only [digest, clampOne_eq]
  rfl

end

section
/-! PROOFS. The S-box commands `SB.MIX`, `SB.BASE`, `SB.RND`, `SB.INVB`, `SB.DIG` (rules R106 to R110). -/

open Sys2Proof Sys2Proof.Machine

/-- Settles O39: the effect stores the inverse box to `BOXB`. -/
theorem inverseBoxIsStoredToBoxB : Obligations.InverseBoxIsStoredToBoxB := by
  refine ⟨rfl, fun s hs => ⟨_, exec_running rfl hs, State.setBuf_storesExactly s .boxb 256 _⟩, inverseBox_of_zeros,
    fun _ => inverseBox_of_identity, fun red hred => ⟨?_, ?_⟩⟩
  · have hback := inverseBox_baseBox (p := { red := red, mixDir := .left }) hred 0x00
    rwa [baseBox_at_zero] at hback
  · have hback := inverseBox_baseBox (p := { red := red, mixDir := .left }) hred 0x01
    rwa [baseBox_at_one, bitMix_left_one] at hback

/-- Settles O37: the effect stores `bit_mix(A)` to `Y`. -/
theorem mixWritesBitMixOfA : Obligations.MixWritesBitMixOfA :=
  ⟨rfl, fun _ hs => exec_running rfl hs, fun p => ⟨bitMix_zero p, bitMix_ones p⟩,
    fun red => ⟨bitMix_left_one red, bitMix_right_one red⟩⟩

/-- Settles O38: the effects store their boxes to `BOXA`; the corner cases follow from inv(0) = 0 and inv(1) = 1. -/
theorem baseAndRoundBoxesAreStoredToBoxA : Obligations.BaseAndRoundBoxesAreStoredToBoxA := by
  refine ⟨rfl, rfl, fun s hs => ⟨⟨_, exec_running rfl hs, State.setBuf_storesExactly s .boxa 256 _⟩,
    ⟨_, exec_running rfl hs, State.setBuf_storesExactly s .boxa 256 _⟩⟩, fun p mask i => ?_, fun red => ?_⟩
  · have hmask : boxAt (roundBox p mask) 0x00 = mask := by
      rw [boxAt_roundBox, baseBox_at_zero]
      exact BitVec.zero_xor
    exact ⟨boxAt_baseBox p i, boxAt_roundBox p mask i, roundBox_of_zero_mask p, baseBox_at_zero p, hmask,
      baseBox_at_one p⟩
  · have hbase : boxAt (baseBox { red := red, mixDir := .left }) 0x01 = 0xD5 := by
      rw [baseBox_at_one, bitMix_left_one]
    refine ⟨hbase, ?_, ?_⟩
    · rw [boxAt_roundBox, baseBox_at_zero]
      rfl
    · rw [boxAt_roundBox, hbase]
      rfl

/-- Settles O40: the effect stores the digest of `SK` to `Y`. -/
theorem digestOfSubkeyIsWrittenToY : Obligations.DigestOfSubkeyIsWrittenToY :=
  ⟨rfl, fun _ hs => exec_running rfl hs, fun p => ⟨digest_zeros p, digest_ones p, digest_twos p⟩,
    fun p i _ hb => digest_single p i hb⟩

end

section
/-! PROOFS. The round constants (rules R120 and R123). The idea: `mul(v, 2)` is `xtime(v)`, so `round_constant(i)` is
`xtime` applied `i + 3` times to the byte 1, whose residue class modulo `P` is `x^(i+3)`. -/

namespace Sys2Proof.Machine

/-- Doubling carries one round constant to the next (rule R120, conflict C2). -/
theorem roundConstant_succ (p : Params) (i : Nat) : roundConstant p (i + 1) = gfMul p (roundConstant p i) 0x02 :=
  Function.iterate_succ_apply' (fun v => gfMul p v 0x02) (i + 2) 0x02

/-- Where bit 7 is clear, `xtime` is a plain left shift: nothing is reduced. -/
theorem xtime_of_top_clear (p : Params) {a : Byte} (ha : a.getLsbD 7 = false) : xtime p a = a <<< 1 := by
  rw [xtime, ha]
  exact BitVec.xor_zero

theorem roundConstant_eq_xtime_iterate (p : Params) (i : Nat) : roundConstant p i = (xtime p)^[i + 3] 0x01 := by
  have hdouble : (fun v => gfMul p v 0x02) = xtime p := funext (gfMul_two p)
  have htwo : xtime p 0x01 = 0x02 := xtime_of_top_clear p rfl
  rw [roundConstant, hdouble, ← htwo, ← Function.iterate_succ_apply]

/-- `round_constant(i) = x^(i+3) mod P` (rule R120), in GF(2)[x]/(P). -/
theorem toRing_roundConstant (p : Params) (i : Nat) :
    toRing p (roundConstant p i) = AdjoinRoot.root (modulus p) ^ (i + 3) := by
  rw [roundConstant_eq_xtime_iterate, toRing_xtime_iterate]
  exact (congrArg (_ * ·) (toRing_one p)).trans (mul_one _)

theorem modulus_dvd_X_pow_sub_roundConstant (p : Params) {i n : Nat} (hn : i + 3 = n) :
    modulus p ∣ Polynomial.X ^ n - bytePoly (roundConstant p i) := by
  refine AdjoinRoot.mk_eq_mk.1 ?_
  rw [map_pow, AdjoinRoot.mk_X, ← hn]
  exact (toRing_roundConstant p i).symm

/-- The first five constants are the shifts of 0x08: the doublings up to 0x80 lose no top bit. -/
theorem roundConstant_eq_shiftLeft (p : Params) {i : Nat} (hi : i < 5) : roundConstant p i = (0x08 : Byte) <<< i := by
  induction i with
  | zero =>
    rw [roundConstant_eq_xtime_iterate]
    simp [xtime]
  | succ i ih =>
    have htop : ∀ k < 4, ((0x08 : Byte) <<< k).getLsbD 7 = false := by decide
    rw [roundConstant_succ, gfMul_two, ih (by omega), xtime_of_top_clear p (htop i (by omega)),
      BitVec.shiftLeft_add]

/-- The doubling of 0x80 is the first one reduced: `x^8 = RED`. -/
theorem roundConstant_five (p : Params) : roundConstant p 5 = p.red := by
  have hfour : roundConstant p 4 = 0x80 := roundConstant_eq_shiftLeft p (by omega)
  rw [roundConstant_succ, hfour, gfMul_comm, two_gfMul_top]

theorem roundConstant_six (p : Params) : roundConstant p 6 = xtime p p.red := by
  rw [roundConstant_succ, roundConstant_five, gfMul_two]

end Sys2Proof.Machine

open Sys2Proof Sys2Proof.Machine

/-- Settles O41: the recurrence is one more doubling, and the residue class of `round_constant(i)` is `x^(i+3)`. -/
theorem roundConstantIsAPowerOfX : Obligations.RoundConstantIsAPowerOfX :=
  fun p => ⟨roundConstant_succ p, fun _ => modulus_dvd_X_pow_sub_roundConstant p rfl,
    roundConstant_eq_shiftLeft p (i := 0) (by omega), roundConstant_eq_shiftLeft p (i := 1) (by omega),
    roundConstant_eq_shiftLeft p (i := 2) (by omega), roundConstant_eq_shiftLeft p (i := 3) (by omega),
    roundConstant_eq_shiftLeft p (i := 4) (by omega), roundConstant_five p, roundConstant_six p⟩

/-- Settles O43: the effect stores the round constant of `IDX` to `Y`; `IDX = 255` is the power of `x` at 255 + 3. -/
theorem roundConstantOfIdxIsWrittenToY : Obligations.RoundConstantOfIdxIsWrittenToY := by
  refine ⟨rfl, fun _ hs => exec_running rfl hs, fun p => ?_, ?_⟩
  · exact ⟨roundConstant_eq_shiftLeft p (i := 0) (by omega), roundConstant_eq_shiftLeft p (i := 2) (by omega),
      roundConstant_eq_shiftLeft p (i := 4) (by omega), roundConstant_five p⟩
  · intro poly p
    -- The two names of the polynomial are compared here, away from the closed exponent 258.
    have hpoly : poly = bytePoly := rfl
    rw [hpoly]
    exact modulus_dvd_X_pow_sub_roundConstant p rfl

end

section
/-! PROOFS. The diffusion layer (43_diffusion.md). The idea: `diffuse` and `diffuseInv` are written in gather form (log
12), so each byte of a rotated block is read back by row and column from one source row; that the scatter form of rules
R130 and R131 is the same map is the fact that the two rotations of a row number cancel modulo `R`. -/

namespace Sys2Proof.Machine

/-! ### The matrix view entry by entry (rule R48) -/

/-- Every index of a block is the one of a row and a column. -/
theorem exists_row_column {R q : Nat} (hq : q < 8 * R) : ∃ r c, r < R ∧ c < 8 ∧ q = 8 * r + c :=
  ⟨q / 8, q % 8, by omega, by omega, by omega⟩

@[simp] theorem toMatrix_getElem {R : Nat} (blk : Vector Byte (8 * R)) {r c : Nat} (hr : r < R) (hc : c < 8) :
    (toMatrix blk)[r][c] = blk[8 * r + c] := by
  simp [toMatrix]

theorem toBlock_getElem {R : Nat} (m : Matrix R) {r c : Nat} (hr : r < R) (hc : c < 8) :
    (toBlock m)[8 * r + c] = m[r][c] := by
  have hrow : (8 * r + c) / 8 = r := by omega
  have hcol : (8 * r + c) % 8 = c := by omega
  simp [toBlock, hrow, hcol]

/-- The row that `diffuse` reads for row `r` of column `c` (log 12). -/
theorem toBlock_diffuse_getElem {R : Nat} (blk : Vector Byte (8 * R)) {r c src : Nat} (hr : r < R) (hc : c < 8)
    (hsrc : src < R) (h : (r + R - c % R) % R = src) :
    (toBlock (diffuse (toMatrix blk)))[8 * r + c] = blk[8 * src + c] := by
  subst h
  rw [toBlock_getElem _ hr hc]
  simp [diffuse]

/-- The row that `diffuseInv` reads for row `r` of column `c` (rule R131). -/
theorem toBlock_diffuseInv_getElem {R : Nat} (blk : Vector Byte (8 * R)) {r c src : Nat} (hr : r < R) (hc : c < 8)
    (hsrc : src < R) (h : (r + c % R) % R = src) :
    (toBlock (diffuseInv (toMatrix blk)))[8 * r + c] = blk[8 * src + c] := by
  subst h
  rw [toBlock_getElem _ hr hc]
  simp [diffuseInv]

/-! ### The two rotations of a row number undo each other -/

/-- Rotating down by `k` and then up by `k` is a full turn. -/
theorem rotateDown_rotateUp {R r k : Nat} (hr : r < R) (hk : k ≤ R) : ((r + k) % R + R - k) % R = r := by
  have hturn : r + k + (R - k) = r + R := by omega
  rw [Nat.add_sub_assoc hk, Nat.mod_add_mod, hturn, Nat.add_mod_right, Nat.mod_eq_of_lt hr]

/-- Rotating up by `k` and then down by `k` is a full turn. -/
theorem rotateUp_rotateDown {R r k : Nat} (hr : r < R) (hk : k ≤ R) : ((r + R - k) % R + k) % R = r := by
  have hturn : r + R - k + k = r + R := by omega
  rw [Nat.mod_add_mod, hturn, Nat.add_mod_right, Nat.mod_eq_of_lt hr]

/-! ### Blocks and columns that the rotations leave alone or move alike (rules R133, R134) -/

/-- A block of equal bytes is its own rotation: every source row holds the same byte. -/
theorem toBlock_diffuse_replicate (R : Nat) (b : Byte) :
    toBlock (diffuse (toMatrix (Vector.replicate (8 * R) b))) = Vector.replicate (8 * R) b := by
  ext1 q hq
  obtain ⟨r, c, hr, hc, rfl⟩ := exists_row_column hq
  rw [toBlock_diffuse_getElem _ hr hc (Nat.mod_lt _ (by omega)) rfl, Vector.getElem_replicate, Vector.getElem_replicate]

/-- A block of equal bytes is its own inverse rotation. -/
theorem toBlock_diffuseInv_replicate (R : Nat) (b : Byte) :
    toBlock (diffuseInv (toMatrix (Vector.replicate (8 * R) b))) = Vector.replicate (8 * R) b := by
  ext1 q hq
  obtain ⟨r, c, hr, hc, rfl⟩ := exists_row_column hq
  rw [toBlock_diffuseInv_getElem _ hr hc (Nat.mod_lt _ (by omega)) rfl, Vector.getElem_replicate,
    Vector.getElem_replicate]

/-- A column whose step is 0 keeps its bytes under both rotations. -/
theorem diffuse_fixes_column_of_step_zero {R : Nat} (blk : Vector Byte (8 * R)) {r c : Nat} (hr : r < R) (hc : c < 8)
    (hstep : c % R = 0) :
    (toBlock (diffuse (toMatrix blk)))[8 * r + c] = blk[8 * r + c] ∧
    (toBlock (diffuseInv (toMatrix blk)))[8 * r + c] = blk[8 * r + c] := by
  refine ⟨toBlock_diffuse_getElem blk hr hc hr ?_, toBlock_diffuseInv_getElem blk hr hc hr ?_⟩
  · rw [hstep, Nat.sub_zero, Nat.add_mod_right, Nat.mod_eq_of_lt hr]
  · rw [hstep, Nat.add_zero, Nat.mod_eq_of_lt hr]

/-- Half a turn is the same up and down, so a column whose step is `R/2` is rotated alike both ways. -/
theorem diffuse_eq_diffuseInv_of_step_half {R : Nat} (blk : Vector Byte (8 * R)) {r c : Nat} (hr : r < R) (hc : c < 8)
    (hstep : 2 * (c % R) = R) :
    (toBlock (diffuse (toMatrix blk)))[8 * r + c] = (toBlock (diffuseInv (toMatrix blk)))[8 * r + c] := by
  have hsrc : (r + c % R) % R < R := Nat.mod_lt _ (by omega)
  have hhalf : r + R - c % R = r + c % R := by omega
  rw [toBlock_diffuse_getElem blk hr hc hsrc (by rw [hhalf]), toBlock_diffuseInv_getElem blk hr hc hsrc rfl]

/-! ### The commands -/

/-- `DF.FWD.v` on a running engine (rule R133). -/
theorem exec_dfFwd (v : Variant) {s : State} (hs : s.running) : exec (.dfFwd v) s = .next (diffuseStep v s) := by
  cases v <;> exact exec_running rfl hs

/-- `DF.INV.v` on a running engine (rule R134). -/
theorem exec_dfInv (v : Variant) {s : State} (hs : s.running) : exec (.dfInv v) s = .next (diffuseInvStep v s) := by
  cases v <;> exact exec_running rfl hs

end Sys2Proof.Machine

open Sys2Proof Sys2Proof.Machine

/-- Settles O45: the row a byte moves to is the row whose source is the byte's own, since the two rotations cancel. -/
theorem diffusionMovesEachByteAlongItsColumn : Obligations.DiffusionMovesEachByteAlongItsColumn := by
  rintro v blk r c down up hr hc rfl rfl
  have hrows : 0 < v.rows := Nat.zero_lt_of_lt hr
  have hstep : c % v.rows ≤ v.rows := (Nat.mod_lt c hrows).le
  have hdown := Nat.mod_lt (r + c % v.rows) hrows
  have hup := Nat.mod_lt (r + v.rows - c % v.rows) hrows
  exact ⟨hdown, hup, toBlock_diffuse_getElem blk hdown hc hr (rotateDown_rotateUp hr hstep),
    toBlock_diffuseInv_getElem blk hup hc hr (rotateUp_rotateDown hr hstep)⟩

/-- Settles O47: the effects store the rotated block to `DOUT`; the corner cases are read off the source rows. -/
theorem rotatedBlockIsStoredToDout : Obligations.RotatedBlockIsStoredToDout := by
  refine ⟨rfl, rfl, rfl, rfl, rfl, rfl, fun s v hs => ⟨⟨_, exec_dfFwd v hs, State.setBuf_storesExactly s .dout _ _⟩,
    ⟨_, exec_dfInv v hs, State.setBuf_storesExactly s .dout _ _⟩⟩,
    fun v b => ⟨toBlock_diffuse_replicate v.rows b, toBlock_diffuseInv_replicate v.rows b⟩, ?_, by decide, by decide⟩
  rintro v blk ⟨q, hq⟩
  obtain ⟨r, c, hr, hc, rfl⟩ := exists_row_column hq
  have hcol : (8 * r + c) % 8 = c := by omega
  rw [hcol]
  exact ⟨diffuse_fixes_column_of_step_zero blk hr hc, diffuse_eq_diffuseInv_of_step_half blk hr hc⟩

end

section
/-! PROOFS. The confusion function (rule R140). -/

open Sys2Proof Sys2Proof.Machine

/-- Settles O48: a step of `funcF` that reads a byte already replaced reads the `let` that hides it, so substituting the
`let`s, the key byte added last, gives the bytes written out from the original row. -/
theorem funcFFollowsItsEightSteps : Obligations.FuncFFollowsItsEightSteps := by
  unfold Obligations.FuncFFollowsItsEightSteps
  intro p k
  rfl

end

section
/-! PROOFS. The cipher orchestrator (45_orchestrator.md, rules R151 to R154 and R156). The idea for the round order: a
trace of matrices that meets the recurrence of rule R153 holds the partial results of the fold in `encrypt`, and one that
meets the recurrence of rule R154 those of the fold in `decrypt`. -/

namespace Sys2Proof.Machine

/-! ### Folds over the round numbers, followed by a trace -/

/-- A trace in which each round takes one value to the next ends where the fold over the rounds does. -/
theorem foldl_finRange_of_trace {α : Type} {n : Nat} {f : Fin n → α → α} {m : Nat → α}
    (hstep : ∀ r : Fin n, m (r.val + 1) = f r (m r.val)) :
    (List.finRange n).foldl (fun a r => f r a) (m 0) = m n := by
  induction n with
  | zero => rfl
  | succ n ih =>
    have hinit : (List.finRange n).foldl (fun a r => f r.castSucc a) (m 0) = m n := ih fun r => hstep r.castSucc
    rw [List.finRange_succ_last, List.foldl_append, List.foldl_map, hinit]
    exact (hstep (Fin.last n)).symm

/-- A trace in which each round takes the value after it to the one before it begins where the backward fold ends. -/
theorem foldr_finRange_of_trace {α : Type} {n : Nat} {f : Fin n → α → α} {m : Nat → α}
    (hstep : ∀ r : Fin n, m r.val = f r (m (r.val + 1))) : (List.finRange n).foldr f (m n) = m 0 := by
  induction n generalizing m with
  | zero => rfl
  | succ n ih =>
    have htail : (List.finRange n).foldr (fun r => f r.succ) (m (n + 1)) = m 1 :=
      ih (m := fun k => m (k + 1)) fun r => hstep r.succ
    rw [List.finRange_succ, List.foldr_cons, List.foldr_map, htail]
    exact (hstep 0).symm

/-! ### One round, layer by layer (rule R152) -/

/-- A forward round is diffusion, then substitution, then confusion. -/
theorem roundFwd_eq {R : Nat} (rk : Vector Byte (8 * R)) (boxes : Vector Box R) (m : Matrix R) :
    roundFwd rk boxes m = Vector.ofFn fun j =>
      funcF (Vector.ofFn fun c => boxAt boxes[j] (diffuse m)[j][c]) (toMatrix rk)[j] := by
  simp [roundFwd, confuse, substitute]

/-- A backward round is the inverse confusion, then the inverse substitution, then the inverse diffusion. -/
theorem roundBwd_eq {R : Nat} (rk : Vector Byte (8 * R)) (boxes : Vector Box R) (m : Matrix R) :
    roundBwd rk boxes m = diffuseInv (Vector.ofFn fun j => Vector.ofFn fun c =>
      boxAt boxes[j] (funcFInv m[j] (toMatrix rk)[j])[c]) := by
  simp [roundBwd, confuseInv, substitute]

/-! ### What `construct` builds (rule R151) -/

/-- The row of a matrix view is the slice of 8 bytes at `8·r` (rule R48). -/
theorem toMatrix_row {R : Nat} (blk : Vector Byte (8 * R)) {r : Nat} (hr : r < R) :
    (toMatrix blk)[r] = Vector.ofFn fun c : Fin 8 => blk[8 * r + c.val] := by
  simp [toMatrix]

theorem construct_sb (p : Params) (v : Variant) (key : Block v) (r : Fin v.rounds) (s : Fin v.rows) :
    (construct p v key).sb[r][s] = roundBox p (digest p (toMatrix (construct p v key).rk[r])[s]) := by
  simp [construct]

theorem construct_si (p : Params) (v : Variant) (key : Block v) (r : Fin v.rounds) (s : Fin v.rows) :
    (construct p v key).si[r][s] = inverseBox (construct p v key).sb[r][s] := by
  simp [construct]

/-- Zero bytes add nothing to the recurrence of rule R121, since inv(0) = 0: each new byte is the one before it. -/
theorem roundKeyFrom_zeros (p : Params) (carry : Byte) (n : Nat) :
    roundKeyFrom p carry (List.replicate n 0x00) = List.replicate n carry := by
  have hinv : gfInv p (rotl8 0x00 4) = 0x00 := gfInv_zero p
  have hterm : gfInv p (rotl8 0x00 4) ^^^ carry = carry := by
    rw [hinv]
    exact BitVec.zero_xor
  induction n with
  | zero => rfl
  | succ n ih => rw [List.replicate_succ, roundKeyFrom, hterm, ih, List.replicate_succ]

/-- The round key of the zero key repeats the round constant. -/
theorem roundKey_zeros (p : Params) (n i : Nat) :
    roundKey p (Vector.replicate n 0x00) i = Vector.replicate n (roundConstant p i) := by
  apply Vector.toList_inj.1
  simp only [roundKey, Vector.toList_mk, Vector.toList_replicate]
  exact roundKeyFrom_zeros p _ n

/-! ### Replacing a slot, and its `STATUS` bit -/

/-- Replacing a slot changes nothing but the slots. -/
theorem State.setCtx_frame (s : State) (v : Variant) (c : Ctx v) :
    s.setCtx v c = { s with ctx256 := (s.setCtx v c).ctx256, ctx384 := (s.setCtx v c).ctx384,
                            ctx512 := (s.setCtx v c).ctx512 } := by
  cases v <;> rfl

/-- Bit `1 + v` of `STATUS` is the valid flag of the slot of `v` (rule R22). -/
theorem status_getLsbD_validFlagBit (s : State) (v : Variant) :
    s.status.getLsbD (validFlagBit v) = (s.ctx v).valid := by
  cases v <;> simp [State.status, flagByte, validFlagBit]

/-- `CI.NEW.v` on a running engine (rule R156). -/
theorem exec_ciNew (v : Variant) {s : State} (hs : s.running) : exec (.ciNew v) s = .next (constructStep v s) := by
  cases v <;> exact exec_running rfl hs

/-- The slot after `CI.NEW.v` is valid and holds what `construct` builds from the key. -/
@[simp] theorem constructStep_ctx (v : Variant) (s : State) :
    (constructStep v s).ctx v = { valid := true, inst := construct Config.params v (s.keyIn v) } :=
  State.setCtx_ctx_same s v _

/-- The key buffer of the reset state is zero (rule R31). -/
theorem reset_keyIn (v : Variant) : State.reset.keyIn v = Vector.replicate v.bytes 0x00 := by
  ext1 i hi
  simp [State.keyIn]

/-- The first round key of the zero key is 0x08 in every byte. -/
theorem construct_zeros_rk_zero (p : Params) (v : Variant) (h : 0 < v.rounds) :
    (construct p v (Vector.replicate v.bytes 0x00)).rk[0] = Vector.replicate v.bytes 0x08 := by
  have hconst : roundConstant p 0 = 0x08 := roundConstant_eq_shiftLeft p (by omega)
  calc (construct p v (Vector.replicate v.bytes 0x00)).rk[0]
      = roundKey p (Vector.replicate v.bytes 0x00) 0 := by simp [construct, expand, chainKey]
    _ = Vector.replicate v.bytes 0x08 := by rw [roundKey_zeros, hconst]

end Sys2Proof.Machine

open Sys2Proof Sys2Proof.Machine

/-- Settles O52: each clause's recurrence is the round of rule R152, so the trace follows the fold of `encrypt` or of
`decrypt`. -/
theorem cipherRunsItsRoundsInOrder : Obligations.CipherRunsItsRoundsInOrder := by
  refine fun v inst blk m => ⟨fun hblk hstep => ?_, fun hblk hstep => ?_⟩
  · have hround : ∀ r : Fin v.rounds, m (r.val + 1) = roundFwd inst.rk[r] inst.sb[r] (m r.val) :=
      fun r => (hstep r).trans (roundFwd_eq _ _ _).symm
    rw [encrypt, ← hblk, foldl_finRange_of_trace hround]
  · have hround : ∀ r : Fin v.rounds, m r.val = roundBwd inst.rk[r] inst.si[r] (m (r.val + 1)) :=
      fun r => (hstep r).trans (roundBwd_eq _ _ _).symm
    rw [decrypt, ← hblk, foldr_finRange_of_trace hround]

/-- Settles O51: the row of the matrix view that masks a box is the slice of the round key. -/
theorem constructDerivesKeysAndBoxes : Obligations.ConstructDerivesKeysAndBoxes :=
  fun p v key r s => ⟨rfl,
    (construct_sb p v key r s).trans (congrArg (fun row => roundBox p (digest p row)) (toMatrix_row _ s.isLt)),
    construct_si p v key r s⟩

/-- Settles O55: the effect fills the slot of `v` from the key; after reset the key is zero, so the
first round key repeats the round constant 0x08. -/
theorem newConstructsItsSlot : Obligations.NewConstructsItsSlot := by
  refine ⟨rfl, rfl, rfl, fun s v hs => ⟨_, exec_ciNew v hs, ?_, ?_, fun w hw => State.setCtx_ctx_other s _ hw,
    State.setCtx_frame s v _, ?_⟩, _, exec_ciNew .v256 rfl, rfl, ?_⟩
  · rw [constructStep_ctx]
  · rw [constructStep_ctx]
    rfl
  · rw [status_getLsbD_validFlagBit, constructStep_ctx]
  · rw [← State.ctx_v256, constructStep_ctx, reset_keyIn]
    exact construct_zeros_rk_zero Config.params .v256 (by decide)

end

section
/-! PROOFS. The faults and the halted state (60_exceptions.md, rules R171, R172, R175, R176). The idea for the halted
state: a host write away from `CMD` stores one cell that the address alone chooses, and that store neither reads nor
writes `ERR`, `CAUSE`, `FCMD` or a slot. -/

namespace Sys2Proof.Machine

/-! ### A step with a transaction pending -/

/-- A step carries out the host's next transaction on the state with it taken off the queue. -/
theorem step_of_pending {s : State} {tr : Transaction} {rest : List Transaction} (h : s.host.pending = tr :: rest) :
    step s = transact tr (s.afterTaking rest) := by
  simp [step, h]

/-! ### `IllegalCommand` (rule R171) -/

/-- A byte that decodes to no command takes the fault `IllegalCommand` on a running engine. -/
theorem execByte_illegal {c : Byte} (hc : illegalByte c) {s : State} (hs : s.running) :
    execByte c s = .next (takeFault .illegalCommand c s) := by
  cases hd : decode c with
  | ok i => exact absurd hd (hc i)
  | error e => simp [execByte, hd, illegalCommand, hs]

/-! ### `ContextInvalid` (rule R172) -/

theorem slotNeeded_ciEnc (v : Variant) : slotNeeded (.ciEnc v) = some v := by cases v <;> rfl

theorem slotNeeded_ciDec (v : Variant) : slotNeeded (.ciDec v) = some v := by cases v <;> rfl

/-- The byte of `CI.ENC.v` (rule R62). -/
theorem encode_ciEnc (v : Variant) : encode (.ciEnc v) = v.field ++ (0x29 : BitVec 6) := by cases v <;> rfl

/-- The byte of `CI.DEC.v` (rule R62). -/
theorem encode_ciDec (v : Variant) : encode (.ciDec v) = v.field ++ (0x2A : BitVec 6) := by cases v <;> rfl

/-- A command that needs a slot is `CI.ENC` or `CI.DEC` of that slot's variant. -/
theorem eq_cipher_of_slotNeeded {i : Instr} {v : Variant} (h : slotNeeded i = some v) : i = .ciEnc v ∨ i = .ciDec v := by
  cases i <;> cases h <;> simp [Instr.ciEnc, Instr.ciDec]

/-- A command that is neither `CI.ENC` nor `CI.DEC` needs no slot. -/
theorem slotNeeded_eq_none {i : Instr} (h : ∀ w, i ≠ .ciEnc w ∧ i ≠ .ciDec w) : slotNeeded i = none := by
  cases hn : slotNeeded i with
  | none => rfl
  | some v =>
    obtain ⟨henc, hdec⟩ := h v
    exact absurd (eq_cipher_of_slotNeeded hn) (by simp [henc, hdec])

/-- Every command's effect stores a byte to `Y`, stores bytes to one buffer, or replaces one slot. -/
theorem effectOf_cases (i : Instr) (s : State) :
    (∃ x, effectOf i s = s.setY x) ∨ (∃ which n, ∃ bytes : Vector Byte n, effectOf i s = s.setBuf which n bytes) ∨
    ∃ v c, effectOf i s = s.setCtx v c := by
  cases i with
  | gfAdd | gfSub | gfMul | gfInv | sbMix | sbDig | ksRc => exact .inl ⟨_, rfl⟩
  | sbBase | sbRnd | sbInvb | ksRk256 | ksRk384 | ksRk512 | dfFwd256 | dfFwd384 | dfFwd512 | dfInv256 | dfInv384
  | dfInv512 | cfF | cfFi | ciEnc256 | ciEnc384 | ciEnc512 | ciDec256 | ciDec384 | ciDec512 =>
    exact .inr (.inl ⟨_, _, _, rfl⟩)
  | ciNew256 | ciFree256 => exact .inr (.inr ⟨.v256, _, rfl⟩)
  | ciNew384 | ciFree384 => exact .inr (.inr ⟨.v384, _, rfl⟩)
  | ciNew512 | ciFree512 => exact .inr (.inr ⟨.v512, _, rfl⟩)

/-- No command's own effect touches `ERR`: only a fault sets it. -/
@[simp] theorem effectOf_err (i : Instr) (s : State) : (effectOf i s).err = s.err := by
  rcases effectOf_cases i s with ⟨x, h⟩ | ⟨which, n, bytes, h⟩ | ⟨v, c, h⟩
  · rw [h, State.setY_err]
  · rw [h, State.setBuf_err]
  · rw [h, State.setCtx_err]

/-- A command whose slot is invalid takes the fault `ContextInvalid` on a running engine. -/
theorem exec_invalid {i : Instr} {v : Variant} (hi : slotNeeded i = some v) {s : State} (hs : s.running)
    (hv : (s.ctx v).valid = false) : exec i s = .next (takeFault .contextInvalid (encode i) s) := by
  rw [exec_eq_commandOnSlot hi, commandOnSlot_invalid hs hv]

/-! ### Storing one cell, whether halted or not (rules R43, R176) -/

/-- Storing one host-writable cell and setting `ERR` do not disturb each other. -/
theorem State.setCell_with_err (s : State) (e : Bool) (addr : Nat) (x : Byte) (target : Target) :
    { s with err := e }.setCell addr x target = { s.setCell addr x target with err := e } := by
  cases target <;> rfl

/-- A write to any address but `CMD` stores the cell that the address chooses; an ignored write is the store to
`reserved`, which changes nothing. -/
theorem exists_hostWrite_eq_setCell {addr : Addr} (haddr : addr ≠ 0x000) (x : Byte) :
    ∃ target, ∀ s, hostWrite addr x s = .next (s.setCell addr.toNat x target) := by
  have hport := (lookup_access addr).1
  cases hl : lookup addr.toNat with
  | mk target access =>
    cases access with
    | readWrite => exact ⟨target, fun s => by simp [hostWrite, hl]⟩
    | readOnly => exact ⟨.reserved, fun s => by simp [hostWrite, hl, State.setCell]⟩
    | writeOnly => exact absurd (hport (by rw [hl])) haddr
    | none => exact ⟨.reserved, fun s => by simp [hostWrite, hl, State.setCell]⟩

/-! ### Reading one cell, whether halted or not (rules R42, R176) -/

/-- The row of `STATUS` is the one cell 0x001 (rule R41). -/
theorem status_region : ∀ r ∈ addressMap, r.target = .status → r.base = 0x001 ∧ r.size = 1 := by decide

/-- `STATUS` stands at 0x001 only. -/
theorem lookup_ne_status {addr : Nat} (haddr : addr ≠ 0x001) : (lookup addr).1 ≠ .status := by
  intro h
  unfold lookup at h
  split at h
  · next r hfind =>
    obtain ⟨hbase, hsize⟩ := status_region r (List.mem_of_find?_eq_some hfind) h
    have hin := List.find?_some hfind
    simp only [Region.contains, hbase, hsize, Bool.and_eq_true, decide_eq_true_eq] at hin
    omega
  · cases h

/-- Only `STATUS` shows `ERR` to the host. -/
theorem State.cellValue_with_err (s : State) (e : Bool) (addr : Nat) {target : Target} (h : target ≠ .status) :
    { s with err := e }.cellValue addr target = s.cellValue addr target := by
  cases target with
  | status => exact absurd rfl h
  | _ => rfl

/-- A read of any address but that of `STATUS` gives the same byte whatever `ERR` is. -/
theorem hostRead_with_err (s : State) (e : Bool) {addr : Addr} (haddr : addr ≠ 0x001) :
    hostRead { s with err := e } addr = hostRead s addr := by
  have hne : addr.toNat ≠ 0x001 := fun h => haddr (BitVec.eq_of_toNat_eq h)
  have hcell := State.cellValue_with_err s e addr.toNat (lookup_ne_status hne)
  unfold hostRead
  cases hl : lookup addr.toNat with
  | mk target access =>
    rw [hl] at hcell
    cases access with
    | readWrite => exact hcell
    | readOnly => exact hcell
    | writeOnly => rfl
    | none => rfl

/-! ### What a halted engine keeps until a reset (rule R176) -/

/-- `t` has the fault registers and the slots of `s`. -/
def keepsFaultAndSlots (s t : State) : Prop :=
  t.err = s.err ∧ t.cause = s.cause ∧ t.fcmd = s.fcmd ∧ ∀ v, t.ctx v = s.ctx v

theorem keepsFaultAndSlots_refl (s : State) : keepsFaultAndSlots s s := ⟨rfl, rfl, rfl, fun _ => rfl⟩

theorem keepsFaultAndSlots_afterTaking {s t : State} {rest : List Transaction} :
    keepsFaultAndSlots (s.afterTaking rest) t ↔ keepsFaultAndSlots s t := by
  simp [keepsFaultAndSlots]

/-- No cell the host may write is a fault register or belongs to a slot (rule R41). -/
theorem keepsFaultAndSlots_setCell (s : State) (addr : Nat) (x : Byte) (target : Target) :
    keepsFaultAndSlots s (s.setCell addr x target) := by
  cases target <;> exact ⟨rfl, rfl, rfl, fun v => by cases v <;> rfl⟩

/-- No host write to a halted engine touches the fault registers or a slot. -/
theorem hostWrite_halted_keeps {addr : Addr} {x : Byte} {s t : State} (h : hostWrite addr x s = .next t)
    (hs : s.err = true) : keepsFaultAndSlots s t := by
  by_cases haddr : addr = 0x000
  · rw [haddr, hostWrite_cmd, execByte_halted x hs] at h
    cases h
    exact keepsFaultAndSlots_refl s
  · obtain ⟨target, hstore⟩ := exists_hostWrite_eq_setCell haddr x
    rw [hstore] at h
    cases h
    exact keepsFaultAndSlots_setCell s addr.toNat x target

/-- A step of a halted engine keeps the fault registers and the slots, or takes a pending reset. -/
theorem step_halted {s t : State} (h : step s = .next t) (hs : s.err = true) :
    keepsFaultAndSlots s t ∨ ∃ rest, s.host.pending = .reset :: rest ∧ t = resetEngine (s.afterTaking rest) := by
  rcases step_next h with ⟨-, rfl⟩ | ⟨rest, ⟨addr, -, rfl⟩ | hreset | ⟨addr, x, -, hw⟩⟩
  · exact .inl (keepsFaultAndSlots_refl _)
  · exact .inl ⟨rfl, rfl, rfl, fun v => by cases v <;> rfl⟩
  · exact .inr ⟨rest, hreset⟩
  · exact .inl (keepsFaultAndSlots_afterTaking.1 (hostWrite_halted_keeps hw hs))

end Sys2Proof.Machine

open Sys2Proof Sys2Proof.Machine

/-- Settles O8: commands are ignored by the execution rule, `ERR` plays no part in a read outside `STATUS` or in a store
of one cell, and of all steps only the reset touches what the halted engine keeps. -/
theorem haltedEngineIgnoresCommandsUntilReset : Obligations.HaltedEngineIgnoresCommandsUntilReset := by
  refine fun s hs => ⟨fun c => execByte_halted c hs, fun i => exec_halted i hs,
    fun addr haddr => (hostRead_with_err s false haddr).symm, fun addr x haddr => ?_, fun t hstep => ?_⟩
  · obtain ⟨target, hstore⟩ := exists_hostWrite_eq_setCell haddr x
    refine ⟨s.setCell addr.toNat x target, hstore s, ?_⟩
    exact (hstore _).trans (congrArg _ (State.setCell_with_err s false addr.toNat x target))
  · rcases step_halted hstep hs with ⟨herr, hkept⟩ | ⟨rest, hpending, rfl⟩
    · exact .inl ⟨herr.trans hs, hkept⟩
    · exact .inr ⟨by simp [hpending], rfl, fun v => by rw [resetEngine_ctx]; rfl⟩

/-- Settles O6: `takeFault` is the record update of rule R175, and the step runs the illegal byte on the state with the
write taken off the queue. -/
theorem illegalCommandTakesItsFault : Obligations.IllegalCommandTakesItsFault :=
  ⟨fun _ _ => ⟨rfl, rfl⟩, fun s _ hs hc =>
    ⟨execByte_illegal hc hs, fun rest hpending =>
      (step_of_pending hpending).trans (execByte_illegal hc (s := s.afterTaking rest) hs)⟩⟩

/-- Settles O7: the two cipher commands are the only ones that need a slot; the effect of any other leaves `ERR` alone. -/
theorem invalidSlotTakesContextInvalid : Obligations.InvalidSlotTakesContextInvalid := by
  refine fun s v hs hv => ⟨?_, ?_, fun i hi => ?_⟩
  · rw [exec_invalid (slotNeeded_ciEnc v) hs hv, encode_ciEnc]
    rfl
  · rw [exec_invalid (slotNeeded_ciDec v) hs hv, encode_ciDec]
    rfl
  · exact ⟨effectOf i s, exec_running (slotNeeded_eq_none hi) hs, (effectOf_err i s).trans hs⟩

end

section
/-! PROOFS. Decoding and encoding (rules R60 to R64). The idea: a lookup in the table of variants or of
operations finds what has that field or code, and nothing else, so that decoding and encoding undo each other. -/

namespace Sys2Proof

/-! ### The two fields of a command byte (rule R60) -/

theorem CmdWord.toByte_ofByte (c : Byte) : (CmdWord.ofByte c).toByte = c :=
  (BitVec.extractLsb'_append_extractLsb'_eq_extractLsb' (by decide)).trans BitVec.extractLsb'_eq_self

/-! ### The two tables (rules R61, R62) -/

theorem Variant.ofField_eq_some {f : BitVec 2} {v : Variant} : Variant.ofField f = some v ↔ v.field = f := by
  revert f
  cases v <;> decide

theorem Operation.ofCode_eq_some {op : BitVec 6} {o : Operation} : Operation.ofCode op = some o ↔ o.code = op := by
  constructor
  · intro h
    simpa using List.find?_some h
  · rintro rfl
    cases o <;> rfl

/-- The list of assigned operation codes is the table's. -/
theorem CmdWord.opAssigned_eq (w : CmdWord) : w.opAssigned = (Operation.ofCode w.op).isSome := by
  have h : ∀ op : BitVec 6,
      (CmdWord.fixedOps.contains op || CmdWord.variantOps.contains op) = (Operation.ofCode op).isSome := by decide
  exact h w.op

/-- The codes listed as variant-independent are those of the operations that take no variant. -/
theorem CmdWord.fixedOps_contains_code (o : Operation) : CmdWord.fixedOps.contains o.code = !o.takesVariant := by
  cases o <;> rfl

/-! ### The decoder's outcomes -/

theorem decode_of_fields {c : Byte} {v : Variant} {o : Operation} (hv : v.field = (CmdWord.ofByte c).v)
    (ho : o.code = (CmdWord.ofByte c).op) :
    decode c = if o.takesVariant = false ∧ v ≠ .v256 then .error .variantOnFixedOp else .ok (o.instr v) := by
  simp [decode, Variant.ofField_eq_some.2 hv, Operation.ofCode_eq_some.2 ho]

theorem exists_variant_field {f : BitVec 2} (h : f ≠ 3) : ∃ v : Variant, v.field = f := by
  have hsome : ∀ f : BitVec 2, f ≠ 3 → Variant.ofField f ≠ none := by decide
  obtain ⟨v, hv⟩ := Option.ne_none_iff_exists'.1 (hsome f h)
  exact ⟨v, Variant.ofField_eq_some.1 hv⟩

theorem exists_operation_code {w : CmdWord} (h : w.opAssigned = true) : ∃ o : Operation, o.code = w.op := by
  rw [CmdWord.opAssigned_eq, Option.isSome_iff_exists] at h
  obtain ⟨o, ho⟩ := h
  exact ⟨o, Operation.ofCode_eq_some.1 ho⟩

theorem decode_reservedVariant {c : Byte} (h : (CmdWord.ofByte c).v = 3) : decode c = .error .reservedVariant := by
  simp only [decode, h]
  rfl

theorem decode_unassignedOp {c : Byte} (hv : (CmdWord.ofByte c).v ≠ 3) (hop : (CmdWord.ofByte c).opAssigned = false) :
    decode c = .error .unassignedOp := by
  obtain ⟨v, hv⟩ := exists_variant_field hv
  rw [CmdWord.opAssigned_eq, Option.isSome_eq_false_iff, Option.isNone_iff_eq_none] at hop
  simp [decode, Variant.ofField_eq_some.2 hv, hop]

theorem decode_variantOnFixedOp {c : Byte} (hv : (CmdWord.ofByte c).v ≠ 3) (hv0 : (CmdWord.ofByte c).v ≠ 0)
    (hop : (CmdWord.ofByte c).op ∈ CmdWord.fixedOps) : decode c = .error .variantOnFixedOp := by
  have hcontains : CmdWord.fixedOps.contains (CmdWord.ofByte c).op = true := List.contains_iff_mem.2 hop
  obtain ⟨v, hv⟩ := exists_variant_field hv
  obtain ⟨o, ho⟩ := exists_operation_code (w := CmdWord.ofByte c) (by rw [CmdWord.opAssigned, hcontains, Bool.true_or])
  have hfixed : o.takesVariant = false := by
    rwa [← ho, CmdWord.fixedOps_contains_code, Bool.not_eq_true'] at hcontains
  have hne : v ≠ .v256 := by
    rintro rfl
    exact hv0 hv.symm
  rw [decode_of_fields hv ho, if_pos ⟨hfixed, hne⟩]

/-! ### Decoding and encoding undo each other -/

/-- The fields of the command that an operation and a variant denote, where the operation may have that variant. -/
theorem Operation.instr_fields {o : Operation} {v : Variant} (h : ¬(o.takesVariant = false ∧ v ≠ .v256)) :
    (o.instr v).fields = { v := v.field, op := o.code } := by
  cases o with
  | ksRk | dfFwd | dfInv | ciNew | ciEnc | ciDec | ciFree => cases v <;> rfl
  | _ =>
    obtain rfl : v = .v256 := by
      by_contra hv
      exact h ⟨rfl, hv⟩
    rfl

theorem decode_encode (i : Instr) : decode (encode i) = .ok i := by cases i <;> rfl

theorem encode_of_decode {c : Byte} {i : Instr} (h : decode c = .ok i) : encode i = c := by
  have hv : (CmdWord.ofByte c).v ≠ 3 := fun hv => by simp [decode_reservedVariant hv] at h
  have hop : (CmdWord.ofByte c).opAssigned = true := by
    by_contra hop
    simp [decode_unassignedOp hv (Bool.eq_false_of_not_eq_true hop)] at h
  obtain ⟨v, hv⟩ := exists_variant_field hv
  obtain ⟨o, ho⟩ := exists_operation_code hop
  rw [decode_of_fields hv ho] at h
  split at h
  · cases h
  · next hallowed =>
    cases h
    rw [encode, Operation.instr_fields hallowed, hv, ho]
    exact CmdWord.toByte_ofByte c

theorem decode_eq_ok_iff {c : Byte} {i : Instr} : decode c = .ok i ↔ encode i = c := by
  refine ⟨encode_of_decode, ?_⟩
  rintro rfl
  exact decode_encode i

/-- The checks of rules R61 and R62 pass exactly the bytes that decode (rules R63, R64). -/
theorem exists_decode_iff_wellFormed {c : Byte} :
    (∃ i, decode c = .ok i) ↔ (CmdWord.ofByte c).wellFormed = true := by
  constructor
  · rintro ⟨i, hi⟩
    rw [← encode_of_decode hi]
    cases i <;> rfl
  · intro h
    simp only [CmdWord.wellFormed, Bool.and_eq_true] at h
    obtain ⟨⟨hdefined, hassigned⟩, hallowed⟩ := h
    obtain ⟨v, hv⟩ := exists_variant_field (bne_iff_ne.1 hdefined)
    obtain ⟨o, ho⟩ := exists_operation_code hassigned
    have hmay : ¬(o.takesVariant = false ∧ v ≠ .v256) := by
      rintro ⟨hfixed, hne⟩
      rw [CmdWord.variantAllowed, ← hv, ← ho, CmdWord.fixedOps_contains_code, hfixed] at hallowed
      cases v with
      | v256 => exact hne rfl
      | v384 | v512 => cases hallowed
    exact ⟨o.instr v, by rw [decode_of_fields hv ho, if_neg hmay]⟩

/-- The 33 bytes of the opcode table in ascending order (rule R63). -/
def legalBytes : List Byte :=
  [0x01, 0x02, 0x03, 0x04, 0x08, 0x09, 0x0A, 0x0B, 0x0C, 0x10, 0x11, 0x18, 0x19, 0x20, 0x21, 0x28, 0x29, 0x2A,
    0x2B, 0x51, 0x58, 0x59, 0x68, 0x69, 0x6A, 0x6B, 0x91, 0x98, 0x99, 0xA8, 0xA9, 0xAA, 0xAB]

theorem exists_decode_iff_mem_legalBytes {c : Byte} : (∃ i, decode c = .ok i) ↔ c ∈ legalBytes := by
  constructor
  · rintro ⟨i, hi⟩
    rw [← encode_of_decode hi]
    cases i <;> decide
  · have hlegal : ∀ c ∈ legalBytes, (CmdWord.ofByte c).wellFormed = true := by decide
    exact fun hc => exists_decode_iff_wellFormed.2 (hlegal c hc)

end Sys2Proof

open Sys2Proof Sys2Proof.Machine

/-- Settles O1: encoding puts together the two fields that decoding looks up in the two tables. -/
theorem decodeAcceptsExactlyTheEncodings : Obligations.DecodeAcceptsExactlyTheEncodings :=
  fun _ _ => decode_eq_ok_iff

/-- Settles O2: each byte is computed from the command's fields. -/
theorem commandBytesAreThoseOfTheTable : Obligations.CommandBytesAreThoseOfTheTable := by
  unfold Obligations.CommandBytesAreThoseOfTheTable
  decide

/-- Settles O3: a byte decodes exactly when its fields pass the three checks, and the check that fails first names the
error. -/
theorem illegalBytesAreRejectedByName : Obligations.IllegalBytesAreRejectedByName :=
  ⟨fun _ => exists_decode_iff_mem_legalBytes, by decide +kernel, fun _ => exists_decode_iff_wellFormed,
    fun _ => decode_reservedVariant, fun _ => decode_unassignedOp, fun _ => decode_variantOnFixedOp⟩

/-- Settles O4: each of the sample bytes is looked up in the tables. -/
theorem sampleCommandBytesDecode : Obligations.SampleCommandBytesDecode :=
  ⟨rfl, rfl, rfl, rfl, rfl, rfl, rfl, rfl, rfl, rfl⟩

end

section
/-! PROOFS. The host port and the step (20_memory.md, 30_encoding.md section 5). The idea: the address map, looked up by
ranges, decides what a transaction does, and every transaction has an outcome. -/

namespace Sys2Proof.Machine

/-! ### Every command and every transaction answers a next state (rules R69, R173) -/

theorem exists_exec_next (i : Instr) (s : State) : ∃ t, exec i s = .next t := by
  cases hs : s.err with
  | true => exact ⟨s, exec_halted i hs⟩
  | false =>
    cases hi : slotNeeded i with
    | none => exact ⟨_, exec_running hi hs⟩
    | some v =>
      cases hv : (s.ctx v).valid with
      | true => exact ⟨_, by rw [exec_eq_commandOnSlot hi, commandOnSlot_valid hs hv]⟩
      | false => exact ⟨_, exec_invalid hi hs hv⟩

/-- A legal byte runs its command (rule R69). -/
theorem execByte_of_decode {c : Byte} {i : Instr} (hc : decode c = .ok i) (s : State) : execByte c s = exec i s := by
  simp [execByte, hc]

theorem exists_execByte_next (c : Byte) (s : State) : ∃ t, execByte c s = .next t := by
  by_cases hlegal : ∃ i, decode c = .ok i
  · obtain ⟨i, hi⟩ := hlegal
    rw [execByte_of_decode hi]
    exact exists_exec_next i s
  · cases hs : s.err with
    | true => exact ⟨s, execByte_halted c hs⟩
    | false => exact ⟨_, execByte_illegal (fun i hi => hlegal ⟨i, hi⟩) hs⟩

theorem exists_hostWrite_next (addr : Addr) (x : Byte) (s : State) : ∃ t, hostWrite addr x s = .next t := by
  by_cases haddr : addr = 0x000
  · rw [haddr, hostWrite_cmd]
    exact exists_execByte_next x s
  · obtain ⟨target, hstore⟩ := exists_hostWrite_eq_setCell haddr x
    exact ⟨_, hstore s⟩

theorem step_idle {s : State} (h : s.host.pending = []) : step s = .next s := by
  simp [step, h]

theorem exists_step_next (s : State) : ∃ t, step s = .next t := by
  cases hp : s.host.pending with
  | nil => exact ⟨s, step_idle hp⟩
  | cons tr rest =>
    rw [step_of_pending hp]
    cases tr with
    | read addr => exact ⟨_, rfl⟩
    | write addr x => exact exists_hostWrite_next addr x _
    | reset => exact ⟨_, rfl⟩

/-! ### Buffer cells as the host reads and writes them (rules R41 to R43) -/

/-- Who may access a buffer (rule R41). -/
def Buf.access : Buf → Access
  | .row | .sk | .key | .din | .boxa => .readWrite
  | .rowo | .dout | .boxb => .readOnly

/-- What stands in the cells of a buffer. -/
theorem mappedAt_buf {which : Buf} {addr : Nat} (hlo : which.base ≤ addr) (hhi : addr < which.base + which.size) :
    mappedAt addr = (.buf which, which.access) := by
  cases which <;> simp only [Buf.base, Buf.size] at hlo hhi <;>
    simp (disch := omega) only [mappedAt, if_pos, if_neg, Buf.access]

theorem hostRead_buf {which : Buf} {addr : Addr} (hlo : which.base ≤ addr.toNat)
    (hhi : addr.toNat < which.base + which.size) (s : State) : hostRead s addr = Memory.read s.mem addr.toNat := by
  rw [hostRead, lookup_eq_mappedAt, mappedAt_buf hlo hhi]
  cases which <;> rfl

theorem hostWrite_buf {which : Buf} (hrw : which.access = .readWrite) {addr : Addr} (hlo : which.base ≤ addr.toNat)
    (hhi : addr.toNat < which.base + which.size) (x : Byte) (s : State) :
    hostWrite addr x s = .next { s with mem := Memory.write addr.toNat x s.mem } := by
  rw [hostWrite, lookup_eq_mappedAt, mappedAt_buf hlo hhi, hrw]
  rfl

/-! ### Reads by ranges (rule R42) -/

/-- The byte a read returns for what stands at its address. -/
def State.readMapped (s : State) (addr : Nat) : Target × Access → Byte
  | (target, .readWrite) | (target, .readOnly) => s.cellValue addr target
  | (_, .writeOnly) | (_, .none) => 0x00

theorem hostRead_eq_readMapped (s : State) (addr : Addr) :
    hostRead s addr = s.readMapped addr.toNat (mappedAt addr.toNat) := by
  rw [hostRead, lookup_eq_mappedAt]
  cases mappedAt addr.toNat with
  | mk target access => cases access <;> rfl

/-- Two neighbouring ranges with one value are one range. -/
theorem ite_lt_ite_lt {α : Type} {a m n : Nat} (h : m ≤ n) (x y : α) :
    (if a < m then x else if a < n then x else y) = if a < n then x else y := by
  by_cases hm : a < m
  · rw [if_pos hm, if_pos (hm.trans_le h)]
  · rw [if_neg hm]

/-! ### Ignored writes (rule R44) -/

theorem hostWrite_ignored {addr : Addr} (h : (lookup addr.toNat).2 = .readOnly ∨ (lookup addr.toNat).2 = .none)
    (x : Byte) (s : State) : hostWrite addr x s = .next s := by
  unfold hostWrite
  cases hl : lookup addr.toNat with
  | mk target access =>
    rw [hl] at h
    cases access with
    | readOnly | none => rfl
    | readWrite | writeOnly => simp at h

/-- The read-only and reserved addresses of the window (rule R41). -/
theorem lookup_readOnly_or_none : ∀ addr : Fin 1024,
    (0x001 ≤ addr.val ∧ addr.val < 0x004) ∨ addr.val = 0x007 ∨ (0x018 ≤ addr.val ∧ addr.val < 0x040) ∨
      (0x0C0 ≤ addr.val ∧ addr.val < 0x100) ∨ 0x200 ≤ addr.val →
    (lookup addr.val).2 = .readOnly ∨ (lookup addr.val).2 = .none := by
  decide +kernel

/-- The addresses of the buffers the host may write (rule R41). -/
theorem exists_rwBuffer {addr : Nat} (h : (0x008 ≤ addr ∧ addr < 0x018) ∨ (0x040 ≤ addr ∧ addr < 0x0C0) ∨
    (0x100 ≤ addr ∧ addr < 0x200)) :
    ∃ which : Buf, which.access = .readWrite ∧ which.base ≤ addr ∧ addr < which.base + which.size := by
  rcases h with ⟨hlo, hhi⟩ | ⟨hlo, hhi⟩ | ⟨hlo, hhi⟩
  · rcases Nat.lt_or_ge addr 0x010 with hmid | hmid
    · exact ⟨.row, rfl, hlo, hmid⟩
    · exact ⟨.sk, rfl, hmid, hhi⟩
  · rcases Nat.lt_or_ge addr 0x080 with hmid | hmid
    · exact ⟨.key, rfl, hlo, hmid⟩
    · exact ⟨.din, rfl, hmid, hhi⟩
  · exact ⟨.boxa, rfl, hlo, hhi⟩

/-! ### The bits of `STATUS` (rule R22) -/

theorem status_getLsbD_zero (s : State) : s.status.getLsbD 0 = s.err := by
  simp [State.status, flagByte]

/-- A flag shifted by less than 4 leaves the upper bits clear. -/
theorem flagByte_shiftLeft_getLsbD (f : Bool) {n k : Nat} (hk : n < k) : (flagByte f <<< n).getLsbD k = false := by
  have hne : k - n ≠ 0 := by omega
  simp [-BitVec.getLsbD_eq_getElem, flagByte, hne]

theorem status_getLsbD_high (s : State) {k : Nat} (hk : 4 ≤ k) : s.status.getLsbD k = false := by
  have herr : (flagByte s.err).getLsbD k = false := by
    rw [← flagByte_shiftLeft_getLsbD s.err (n := 0) (k := k) (by omega), BitVec.shiftLeft_zero]
  simp only [State.status, BitVec.getLsbD_or, herr]
  rw [flagByte_shiftLeft_getLsbD _ (by omega), flagByte_shiftLeft_getLsbD _ (by omega),
    flagByte_shiftLeft_getLsbD _ (by omega)]
  rfl

end Sys2Proof.Machine

open Sys2Proof Sys2Proof.Machine

/-- Settles O9: the chain of ranges of the address map, each with the byte its cell reads as, and neighbouring ranges of
buffer cells joined. -/
theorem hostReadReturnsTheMappedCell : Obligations.HostReadReturnsTheMappedCell := by
  refine fun s addr => ⟨rfl, ?_⟩
  rw [hostRead_eq_readMapped]
  simp only [mappedAt, apply_ite (s.readMapped addr.toNat)]
  simp only [State.readMapped, State.cellValue, State.status, flagByte]
  rw [ite_lt_ite_lt (n := 0x018) (by decide), ite_lt_ite_lt (n := 0x020) (by decide),
    ite_lt_ite_lt (n := 0x0C0) (by decide), ite_lt_ite_lt (n := 0x100) (by decide),
    ite_lt_ite_lt (n := 0x200) (by decide), ite_lt_ite_lt (n := 0x300) (by decide)]

/-- Settles O10: what stands at the address decides what the write does. -/
theorem hostWriteChangesOnlyItsCell : Obligations.HostWriteChangesOnlyItsCell := by
  intro s addr x
  have hat (n : Nat) (h : addr.toNat = n) : transact (.write addr x) s = hostWrite (BitVec.ofNat 10 n) x s := by
    rw [← h, BitVec.ofNat_toNat, BitVec.setWidth_eq, transact]
  refine ⟨hat 0x000, hat 0x004, hat 0x005, hat 0x006, fun h => ?_, fun h => ?_⟩
  · obtain ⟨which, hrw, hlo, hhi⟩ := exists_rwBuffer h
    exact ⟨_, hostWrite_buf hrw hlo hhi x s, rfl, Memory.read_write_same _ _ _,
      fun other hother => Memory.read_write_other _ _ hother⟩
  · exact hostWrite_ignored (lookup_readOnly_or_none ⟨addr.toNat, addr.isLt⟩ h) x s

/-- Settles O5: the step carries out the write to `CMD`, and the written byte runs its command. -/
theorem stepRunsTheDecodedCommand : Obligations.StepRunsTheDecodedCommand :=
  fun _ _ _ _ hpending hdecode _ => (step_of_pending hpending).trans (execByte_of_decode hdecode _)

/-- Settles O11: each flag stands at its own bit. -/
theorem statusBitsAreTheFourFlags : Obligations.StatusBitsAreTheFourFlags :=
  fun s => ⟨rfl, status_getLsbD_zero s, status_getLsbD_validFlagBit s .v256, status_getLsbD_validFlagBit s .v384,
    status_getLsbD_validFlagBit s .v512, fun _ => status_getLsbD_high s⟩

/-- Settles O13: every branch of the execution rules and of a host write answers a next state. -/
theorem everyStepAnswersANextState : Obligations.EveryStepAnswersANextState :=
  ⟨exists_exec_next, exists_step_next, fun _ => step_idle⟩

end

section
/-! PROOFS. What a command and a step can do, and the invariants (rules R12 to R26, R69, R159, R192, R198). The idea:
one inversion, `exec_result`, names the owner of each result, and a second, `step_result`, lifts it to steps; every
statement about all commands or all steps is then a case analysis over these few shapes. -/

namespace Sys2Proof.Machine

/-! ### What a command can do, with the owners of each result (rules R12, R15, R18 to R20, R25) -/

/-- The buffer a command stores its result to, and how many bytes. -/
inductive StoresTo : Instr → Buf → Nat → Prop
  | rowo {i : Instr} (hi : i ∈ [.cfF, .cfFi]) : StoresTo i .rowo 8
  | dout {i : Instr} (v : Variant) (hi : i ∈ ([.ciEnc v, .ciDec v, .dfFwd v, .dfInv v, .ksRk v] : List Instr)) :
      StoresTo i .dout v.bytes
  | boxa {i : Instr} (hi : i ∈ [.sbBase, .sbRnd]) : StoresTo i .boxa 256
  | boxb : StoresTo .sbInvb .boxb 256

/-- The next states of a command: it is ignored, has the effect its kind allows, or takes `ContextInvalid`. -/
inductive CommandResult (i : Instr) (s : State) : State → Prop
  | ignored : CommandResult i s s
  | y (x : Byte) (hi : i ∈ [.gfAdd, .gfSub, .gfMul, .gfInv, .sbMix, .sbDig, .ksRc]) : CommandResult i s (s.setY x)
  | buf {which : Buf} {n : Nat} (bytes : Vector Byte n) (hi : StoresTo i which n) :
      CommandResult i s (s.setBuf which n bytes)
  | new {v : Variant} (hi : i = .ciNew v) : CommandResult i s (constructStep v s)
  | free {v : Variant} (hi : i = .ciFree v) : CommandResult i s (freeStep v s)
  | fault {v : Variant} (hi : i = .ciEnc v ∨ i = .ciDec v) (hs : s.running) :
      CommandResult i s (takeFault .contextInvalid (encode i) s)

theorem effectOf_result (i : Instr) (s : State) : CommandResult i s (effectOf i s) := by
  cases i with
  | gfAdd | gfSub | gfMul | gfInv | sbMix | sbDig | ksRc => exact .y _ (by decide)
  | sbBase | sbRnd => exact .buf _ (.boxa (by decide))
  | sbInvb => exact .buf _ .boxb
  | cfF | cfFi => exact .buf _ (.rowo (by decide))
  | ksRk256 | dfFwd256 | dfInv256 | ciEnc256 | ciDec256 => exact .buf _ (.dout .v256 (by decide))
  | ksRk384 | dfFwd384 | dfInv384 | ciEnc384 | ciDec384 => exact .buf _ (.dout .v384 (by decide))
  | ksRk512 | dfFwd512 | dfInv512 | ciEnc512 | ciDec512 => exact .buf _ (.dout .v512 (by decide))
  | ciNew256 => exact .new (v := .v256) rfl
  | ciNew384 => exact .new (v := .v384) rfl
  | ciNew512 => exact .new (v := .v512) rfl
  | ciFree256 => exact .free (v := .v256) rfl
  | ciFree384 => exact .free (v := .v384) rfl
  | ciFree512 => exact .free (v := .v512) rfl

/-- Everything a command can do. -/
theorem exec_result {i : Instr} {s t : State} (h : exec i s = .next t) : CommandResult i s t := by
  rcases exec_next h with ⟨-, rfl⟩ | ⟨-, -, rfl⟩ | ⟨hs, ⟨v, hi, -⟩, rfl⟩
  · exact .ignored
  · exact effectOf_result i s
  · exact .fault (eq_cipher_of_slotNeeded hi) hs

/-- A result fits its buffer, which is none the host fills (rules R15, R18 to R20). -/
theorem StoresTo.bounds {i : Instr} {which : Buf} {n : Nat} (h : StoresTo i which n) :
    n ≤ which.size ∧ ((0x018 ≤ which.base ∧ which.base + n ≤ 0x040) ∨ 0x0C0 ≤ which.base) := by
  cases h with
  | rowo => decide
  | dout v => exact ⟨bytes_le_size v, .inr (by decide)⟩
  | boxa | boxb => decide

/-! ### What each kind of result leaves alone -/

@[simp] theorem constructStep_mem (v : Variant) (s : State) : (constructStep v s).mem = s.mem := State.setCtx_mem s v _
@[simp] theorem constructStep_y (v : Variant) (s : State) : (constructStep v s).y = s.y := State.setCtx_y s v _
@[simp] theorem constructStep_err (v : Variant) (s : State) : (constructStep v s).err = s.err := State.setCtx_err s v _
@[simp] theorem freeStep_mem (v : Variant) (s : State) : (freeStep v s).mem = s.mem := State.setCtx_mem s v _
@[simp] theorem freeStep_y (v : Variant) (s : State) : (freeStep v s).y = s.y := State.setCtx_y s v _
@[simp] theorem freeStep_err (v : Variant) (s : State) : (freeStep v s).err = s.err := State.setCtx_err s v _

/-- The slot after `CI.FREE.v` is the reset one (rule R159). -/
@[simp] theorem freeStep_ctx (v : Variant) (s : State) : (freeStep v s).ctx v = Ctx.reset v :=
  State.setCtx_ctx_same s v _

theorem constructStep_ctx_other {v w : Variant} (h : w ≠ v) (s : State) : (constructStep v s).ctx w = s.ctx w :=
  State.setCtx_ctx_other s _ h

theorem freeStep_ctx_other {v w : Variant} (h : w ≠ v) (s : State) : (freeStep v s).ctx w = s.ctx w :=
  State.setCtx_ctx_other s _ h

/-- No command writes an operand register or the host's side (rule R69). -/
theorem CommandResult.operands {i : Instr} {s t : State} (h : CommandResult i s t) :
    t.idx = s.idx ∧ t.a = s.a ∧ t.b = s.b ∧ t.host = s.host := by
  cases h with
  | ignored | y | buf | fault => exact ⟨rfl, rfl, rfl, rfl⟩
  | new | free => exact ⟨State.setCtx_idx _ _ _, State.setCtx_a _ _ _, State.setCtx_b _ _ _, State.setCtx_host _ _ _⟩

/-- A byte of memory that a command changes lies in the range the command stores to. -/
theorem CommandResult.read_eq_or {i : Instr} {s t : State} (h : CommandResult i s t) (addr : Nat) :
    Memory.read t.mem addr = Memory.read s.mem addr ∨
      ∃ which n, StoresTo i which n ∧ which.base ≤ addr ∧ addr < which.base + n := by
  cases h with
  | ignored | y | fault => exact .inl rfl
  | new => exact .inl (by rw [constructStep_mem])
  | free => exact .inl (by rw [freeStep_mem])
  | @buf which n bytes hi =>
    by_cases hin : which.base ≤ addr ∧ addr < which.base + n
    · exact .inr ⟨which, n, hi, hin⟩
    · obtain ⟨-, -, houtside⟩ := State.setBuf_storesExactly s which n bytes
      exact .inl (houtside addr (by omega))

/-- A command changes the slot of `v` only if it is `CI.NEW.v` or `CI.FREE.v` (rule R25). -/
theorem CommandResult.ctx_eq_or {i : Instr} {s t : State} (h : CommandResult i s t) (v : Variant) :
    t.ctx v = s.ctx v ∨ (i = .ciNew v ∧ t = constructStep v s) ∨ (i = .ciFree v ∧ t = freeStep v s) := by
  cases h with
  | ignored => exact .inl rfl
  | y x => exact .inl (State.setY_ctx s x v)
  | buf bytes => exact .inl (State.setBuf_ctx s _ _ bytes v)
  | fault => exact .inl (takeFault_ctx s _ _ v)
  | @new w hi =>
    by_cases hw : v = w
    · subst hw
      exact .inr (.inl ⟨hi, rfl⟩)
    · exact .inl (constructStep_ctx_other hw s)
  | @free w hi =>
    by_cases hw : v = w
    · subst hw
      exact .inr (.inr ⟨hi, rfl⟩)
    · exact .inl (freeStep_ctx_other hw s)

/-! ### What a step can do -/

/-- The next states of a step: the host's side and the operand registers, one buffer cell, the reset, a command, or the
fault `IllegalCommand`; the queue loses the transaction taken. -/
inductive StepResult (s : State) : State → Prop
  | registers (host : HostPort) (idx a b : Byte) (hhost : host.pending = s.host.pending.tail) :
      StepResult s { s with host := host, idx := idx, a := a, b := b }
  | cell (rest : List Transaction) (addr : Nat) (x : Byte) (hrest : rest = s.host.pending.tail)
      (haddr : bufferAddress addr) :
      StepResult s { s.afterTaking rest with mem := Memory.write addr x s.mem }
  | reset {rest : List Transaction} (hpending : s.host.pending = .reset :: rest) :
      StepResult s (resetEngine (s.afterTaking rest))
  | command {rest : List Transaction} {c : Byte} {i : Instr} {t : State}
      (hpending : s.host.pending = .write 0x000 c :: rest) (hdecode : decode c = .ok i) (hresult : CommandResult i (s.afterTaking rest) t) : StepResult s t
  | illegal {rest : List Transaction} {c : Byte} (hpending : s.host.pending = .write 0x000 c :: rest)
      (hc : illegalByte c) (hs : s.running) : StepResult s (takeFault .illegalCommand c (s.afterTaking rest))

/-- Everything a step that executes a byte can do. -/
theorem execByte_result {c : Byte} {s t : State} {rest : List Transaction}
    (hpending : s.host.pending = .write 0x000 c :: rest) (h : execByte c (s.afterTaking rest) = .next t) :
    StepResult s t := by
  rcases execByte_next h with ⟨i, hdecode, hexec⟩ | ⟨hc, ⟨-, rfl⟩ | ⟨hs, rfl⟩⟩
  · exact .command hpending hdecode (exec_result hexec)
  · exact .registers { s.host with pending := rest } s.idx s.a s.b (by simp [hpending])
  · exact .illegal hpending hc hs

/-- Everything a step can do. -/
theorem step_result {s t : State} (h : step s = .next t) : StepResult s t := by
  rcases step_next h with ⟨hpending, rfl⟩ | ⟨rest, ⟨addr, hpending, rfl⟩ | ⟨hpending, rfl⟩ | ⟨addr, x, hpending, hw⟩⟩
  · exact .registers t.host t.idx t.a t.b (by simp [hpending])
  · exact .registers _ s.idx s.a s.b (by simp [hpending])
  · exact .reset hpending
  · have hrest : rest = s.host.pending.tail := by simp [hpending]
    rcases hostWrite_next hw with ⟨rfl, hbyte⟩ | rfl | rfl | rfl | rfl | ⟨haddr, rfl⟩
    · exact execByte_result hpending hbyte
    · exact .registers { s.host with pending := rest } s.idx s.a s.b hrest
    · exact .registers { s.host with pending := rest } x s.a s.b hrest
    · exact .registers { s.host with pending := rest } s.idx x s.b hrest
    · exact .registers { s.host with pending := rest } s.idx s.a x hrest
    · exact .cell rest addr.toNat x hrest haddr

/-- Every step takes the first transaction off the queue and leaves the others. -/
theorem StepResult.pending {s t : State} (h : StepResult s t) : t.host.pending = s.host.pending.tail := by
  cases h with
  | registers host idx a b hhost => exact hhost
  | cell rest addr x hrest => exact hrest
  | reset hpending => simp [hpending]
  | command hpending hdecode hresult =>
    obtain ⟨-, -, -, hhost⟩ := hresult.operands
    simp [hhost, hpending]
  | illegal hpending => simp [hpending]

/-! ### Canonical memory (log 8) -/

theorem CommandResult.memoryOk {i : Instr} {s t : State} (h : CommandResult i s t) (hs : s.memoryOk) : t.memoryOk := by
  cases h with
  | ignored | y | fault => exact hs
  | new => rwa [State.memoryOk, constructStep_mem]
  | free => rwa [State.memoryOk, freeStep_mem]
  | buf bytes hi => exact State.setBuf_memoryOk hs _ hi.bounds.left bytes

/-- Writing a buffer cell keeps the memory canonical and within the buffers. -/
theorem memoryOk_write {s t : State} (hs : s.memoryOk) {addr : Nat} (haddr : bufferAddress addr) (x : Byte)
    (ht : t.mem = Memory.write addr x s.mem) : t.memoryOk := by
  obtain ⟨hwf, hin⟩ := hs
  rw [State.memoryOk, ht]
  refine ⟨Memory.wf_write addr x hwf, fun c hc => ?_⟩
  rcases Memory.mem_write hc with hold | ⟨hnew, -⟩
  · exact hin c hold
  · rwa [hnew]

/-- The memory of the reset state lists nothing. -/
theorem resetEngine_memoryOk (s : State) : (resetEngine s).memoryOk :=
  ⟨State.reset_mem_wf, fun _ hc => nomatch hc⟩

/-! ### The fault record (rules R23, R24, R170, R175) -/

/-- A state with the fault registers of another has its fault record. -/
theorem State.faultRecordOk.congr {s t : State} (hs : s.faultRecordOk) (herr : t.err = s.err)
    (hcause : t.cause = s.cause) (hfcmd : t.fcmd = s.fcmd) : t.faultRecordOk := by
  rwa [State.faultRecordOk, herr, hcause, hfcmd]

theorem resetEngine_faultRecordOk (s : State) : (resetEngine s).faultRecordOk := .inl ⟨rfl, rfl, rfl⟩

theorem CommandResult.faultRecordOk {i : Instr} {s t : State} (h : CommandResult i s t) (hs : s.faultRecordOk) :
    t.faultRecordOk := by
  cases h with
  | ignored | y | buf => exact hs
  | new | free => exact hs.congr (State.setCtx_err _ _ _) (State.setCtx_cause _ _ _) (State.setCtx_fcmd _ _ _)
  | @fault v hi =>
    refine .inr (.inr ⟨rfl, rfl, v, ?_⟩)
    rw [takeFault_fcmd, decode_encode]
    rcases hi with rfl | rfl
    · exact .inl rfl
    · exact .inr rfl

/-! ### The slots (rules R26, R31, R159) -/

theorem slotOk_reset (v : Variant) : slotOk (Ctx.reset v) := rfl

/-- `CI.NEW.v` fills its slot from the key in `KEY` (rule R156). -/
theorem slotOk_constructStep (v : Variant) (s : State) : slotOk ((constructStep v s).ctx v) := by
  rw [constructStep_ctx]
  exact ⟨s.keyIn v, rfl⟩

/-- Setting the host's side and the operand registers changes no slot. -/
theorem registers_ctx (s : State) (host : HostPort) (idx a b : Byte) (v : Variant) :
    State.ctx { s with host := host, idx := idx, a := a, b := b } v = s.ctx v := by
  cases v <;> rfl

/-- Setting the memory changes no slot. -/
theorem mem_ctx (s : State) (mem : Memory) (v : Variant) : State.ctx { s with mem := mem } v = s.ctx v := by
  cases v <;> rfl

/-- What a step does to a slot: nothing, or it becomes a valid slot constructed from a key, or the reset slot, by a
reset or by its own `CI.FREE.v` only. -/
theorem StepResult.ctx_eq_or {s t : State} (h : StepResult s t) (v : Variant) :
    t.ctx v = s.ctx v ∨ (slotOk (t.ctx v) ∧ (t.ctx v).valid = true) ∨
    (t.ctx v = Ctx.reset v ∧ (s.host.pending.head? = some .reset ∨
      s.host.pending.head? = some (.write 0x000 (encode (.ciFree v))))) := by
  cases h with
  | registers host idx a b => exact .inl (registers_ctx s host idx a b v)
  | cell rest addr x =>
    exact .inl ((mem_ctx (s.afterTaking rest) (Memory.write addr x s.mem) v).trans (State.afterTaking_ctx s rest v))
  | reset hpending => exact .inr (.inr ⟨resetEngine_ctx _ v, .inl (by simp [hpending])⟩)
  | @illegal rest => exact .inl ((takeFault_ctx _ _ _ v).trans (State.afterTaking_ctx s rest v))
  | @command rest c i t hpending hdecode hresult =>
    rcases hresult.ctx_eq_or v with heq | ⟨-, rfl⟩ | ⟨rfl, rfl⟩
    · exact .inl (heq.trans (State.afterTaking_ctx s rest v))
    · exact .inr (.inl ⟨slotOk_constructStep v _, by rw [constructStep_ctx]⟩)
    · exact .inr (.inr ⟨freeStep_ctx v _, .inr (by simp [hpending, encode_of_decode hdecode])⟩)

/-! ### Programs of commands that cannot fault (rule R198) -/

/-- A command other than `CI.ENC` and `CI.DEC` does not halt a running engine. -/
theorem CommandResult.running {i : Instr} {s t : State} (h : CommandResult i s t) (hs : s.running)
    (hi : ∀ v, i ≠ .ciEnc v ∧ i ≠ .ciDec v) : t.running := by
  cases h with
  | ignored | y | buf => exact hs
  | new => exact (constructStep_err _ s).trans hs
  | free => exact (freeStep_err _ s).trans hs
  | @fault v hfault =>
    obtain ⟨henc, hdec⟩ := hi v
    rcases hfault with rfl | rfl
    · exact absurd rfl henc
    · exact absurd rfl hdec

/-- Every byte the queue writes to `CMD` is a legal one of a command other than `CI.ENC` and `CI.DEC`. -/
def safeQueue (queue : List Transaction) : Prop :=
  ∀ c, .write 0x000 c ∈ queue → ∃ i, decode c = .ok i ∧ ∀ v, i ≠ .ciEnc v ∧ i ≠ .ciDec v

theorem safeQueue.tail {queue : List Transaction} (h : safeQueue queue) : safeQueue queue.tail :=
  fun c hc => h c (List.mem_of_mem_tail hc)

theorem safeQueue.head {c : Byte} {rest queue : List Transaction} (h : safeQueue queue)
    (hqueue : queue = .write 0x000 c :: rest) : ∃ i, decode c = .ok i ∧ ∀ v, i ≠ .ciEnc v ∧ i ≠ .ciDec v :=
  h c (by simp [hqueue])

theorem StepResult.running {s t : State} (h : StepResult s t) (hs : s.running) (hqueue : safeQueue s.host.pending) :
    t.running := by
  cases h with
  | registers | cell => exact hs
  | reset => rfl
  | command hpending hdecode hresult =>
    obtain ⟨i, hi, hsafe⟩ := hqueue.head hpending
    obtain rfl : _ = i := Except.ok.inj (hdecode.symm.trans hi)
    exact hresult.running hs hsafe
  | illegal hpending hc =>
    obtain ⟨i, hi, -⟩ := hqueue.head hpending
    exact absurd hi (hc i)

theorem safeFor_of_safeQueue (k : Nat) {s : State} (hs : s.running) (hqueue : safeQueue s.host.pending) :
    safeFor k s := by
  induction k generalizing s with
  | zero => exact hs
  | succ k ih =>
    obtain ⟨t, ht⟩ := exists_step_next s
    have hresult := step_result ht
    refine ⟨hs, t, ht, ih (hresult.running hs hqueue) ?_⟩
    rw [hresult.pending]
    exact hqueue.tail

end Sys2Proof.Machine

open Sys2Proof Sys2Proof.Machine

/-- Settles O19: a step writes one buffer cell or a result that fits its buffer, or empties the memory. -/
theorem everyStepKeepsTheMemoryCanonical : Obligations.EveryStepKeepsTheMemoryCanonical := by
  intro s t hs hstep
  cases step_result hstep with
  | registers | illegal => exact hs
  | cell rest addr x hrest haddr => exact memoryOk_write hs haddr x rfl
  | reset => exact resetEngine_memoryOk _
  | command hpending hdecode hresult => exact hresult.memoryOk hs

/-- Settles O20: only a fault writes the fault registers, all three of them at once, and only a reset clears them. -/
theorem everyStepKeepsTheFaultRecordConsistent : Obligations.EveryStepKeepsTheFaultRecordConsistent := by
  intro s t hs hstep
  cases step_result hstep with
  | registers | cell => exact hs
  | reset => exact resetEngine_faultRecordOk _
  | command hpending hdecode hresult => exact hresult.faultRecordOk hs
  | illegal hpending hc => exact .inr (.inl ⟨rfl, rfl, hc⟩)

/-- Settles O21: a slot is written by its own `CI.NEW.v`, which constructs it, and by `CI.FREE.v` and the reset, which
zero it. -/
theorem everyStepKeepsSlotsConstructed : Obligations.EveryStepKeepsSlotsConstructed := by
  intro s t hs hstep v
  rcases (step_result hstep).ctx_eq_or v with heq | ⟨hok, -⟩ | ⟨hreset, -⟩
  · exact heq ▸ hs v
  · exact hok
  · exact hreset ▸ slotOk_reset v

/-- Settles O14: a command stores its result outside the operand buffers. -/
theorem noCommandWritesASource : Obligations.NoCommandWritesASource := by
  intro i s t hexec
  have hresult := exec_result hexec
  obtain ⟨hidx, ha, hb, hhost⟩ := hresult.operands
  refine ⟨hidx, ha, hb, hhost, fun addr haddr => ?_⟩
  rcases hresult.read_eq_or addr with hread | ⟨which, n, hstores, hlo, hhi⟩
  · exact hread
  · obtain ⟨-, hrange⟩ := hstores.bounds
    omega

/-- Settles O15: each result has its owners in `exec_result`. -/
theorem resultsAreWrittenOnlyByTheirCommands : Obligations.ResultsAreWrittenOnlyByTheirCommands := by
  intro i s t hexec
  have hresult := exec_result hexec
  refine ⟨fun hy => ?_, fun addr hread => ?_⟩
  · cases hresult with
    | y x hi => exact hi
    | ignored | buf | fault => exact absurd rfl hy
    | new => exact absurd (constructStep_y _ s) hy
    | free => exact absurd (freeStep_y _ s) hy
  · obtain ⟨which, n, hstores, hlo, hhi⟩ := (hresult.read_eq_or addr).resolve_left hread
    cases hstores with
    | rowo hi => exact .inl ⟨⟨hlo, hhi⟩, hi⟩
    | dout v hi => exact .inr (.inl ⟨⟨hlo, hhi.trans_le (Nat.add_le_add_left (bytes_le_size v) _)⟩, v, hhi, hi⟩)
    | boxa hi => exact .inr (.inr (.inl ⟨⟨hlo, hhi⟩, hi⟩))
    | boxb => exact .inr (.inr (.inr ⟨⟨hlo, hhi⟩, rfl⟩))

/-- Settles O16: of all results only the slot of `CI.NEW.v` or `CI.FREE.v` is a slot. -/
theorem slotsChangeOnlyByTheirOwnNewAndFree : Obligations.SlotsChangeOnlyByTheirOwnNewAndFree := by
  intro i s t v hexec hne
  rcases (exec_result hexec).ctx_eq_or v with heq | ⟨hi, -⟩ | ⟨hi, -⟩
  · exact absurd heq hne
  · exact .inl hi
  · exact .inr hi

/-- Settles O17: of all steps only the reset and the slot's own `CI.FREE.v` make a valid slot invalid. -/
theorem validSlotStaysValidUntilFreedOrReset : Obligations.ValidSlotStaysValidUntilFreedOrReset := by
  intro s t v hv hstep
  rcases (step_result hstep).ctx_eq_or v with heq | ⟨-, hvalid⟩ | ⟨-, hcause⟩
  · exact .inl (heq ▸ hv)
  · exact .inl hvalid
  · exact .inr hcause

/-- Settles O18: the memory of the reset state lists nothing, its fault registers are zero and its slots are zero. -/
theorem resetStateMeetsTheInvariant : Obligations.ResetStateMeetsTheInvariant :=
  ⟨resetEngine_memoryOk State.reset, resetEngine_faultRecordOk State.reset,
    fun v => State.reset_ctx v ▸ slotOk_reset v⟩

/-- Settles O23: a step takes one transaction off the queue, and neither a command of such a queue nor any other of its
transactions halts a running engine. -/
theorem programsOfLegalCommandsNeverHalt : Obligations.ProgramsOfLegalCommandsNeverHalt :=
  fun _ hs hqueue k => safeFor_of_safeQueue k hs hqueue

end

section
/-! PROOFS. The field laws (rules R5, R85 to R87, R91). The idea for the converse of rule R5: where `x^8 + RED` is
reducible it has a factor of degree at most 4, and long division gives the cofactor; the two bytes are zero divisors,
and a zero divisor has no inverse. -/

namespace Sys2Proof.Machine

/-! ### Inverses (rule R86) -/

theorem gfInv_eq_of_gfMul_eq_one {p : Params} {f x : Byte} (h : gfMul p f x = 0x01) : gfInv p f = x :=
  gfMul_eq_one_unique (gfInv_least h).1 h

theorem gfInv_gfInv {p : Params} (hp : p.red ∈ irr) (f : Byte) : gfInv p (gfInv p f) = f := by
  by_cases hf : f = 0x00
  · rw [hf, gfInv_zero, gfInv_zero]
  · exact gfInv_eq_of_gfMul_eq_one (by rw [gfMul_comm, gfMul_gfInv hp hf])

theorem eq_zero_of_gfMul_eq_zero {p : Params} (hp : p.red ∈ irr) {f g : Byte} (h : gfMul p f g = 0x00) :
    f = 0x00 ∨ g = 0x00 := by
  by_contra! hne
  exact gfMul_ne_zero hp hne.1 hne.2 h

/-- The inverse of `x` is `(P - 1)/x`: it shifts to `x^8 + RED + 1`, and `x^8` is `RED`. -/
theorem gfInv_two {p : Params} (hp : p.red ∈ irr) : gfInv p 0x02 = ((p.red ^^^ 0x01) >>> 1) ||| 0x80 := by
  have htop : ∀ red ∈ irr, (((red ^^^ 0x01) >>> 1) ||| 0x80).getLsbD 7 = true := by decide
  have hshift : ∀ red ∈ irr, (((red ^^^ 0x01) >>> 1) ||| 0x80) <<< 1 ^^^ red = 0x01 := by decide
  refine gfInv_eq_of_gfMul_eq_one ?_
  rw [gfMul_comm, gfMul_two, xtime, htop _ hp, if_pos rfl, hshift _ hp]

/-! ### Outside `IRR` there are zero divisors (rule R5) -/

/-- A zero divisor has no inverse. -/
theorem gfMul_ne_one_of_zero_divisor {p : Params} {f g : Byte} (hg : g ≠ 0x00) (hfg : gfMul p f g = 0x00) (x : Byte) :
    gfMul p f x ≠ 0x01 := by
  intro hx
  refine hg ?_
  calc
    g = gfMul p (gfMul p f x) g := by rw [hx]; exact (one_gfMul p g).symm
    _ = gfMul p x (gfMul p f g) := by rw [gfMul_comm p f x, gfMul_assoc]
    _ = 0x00 := by rw [hfg]; exact gfMul_zero p x

/-- The irreducible polynomials of degree at most 4 over GF(2), each with its degree. -/
def smallFactors : List (Byte × Nat) :=
  [(0x02, 1), (0x03, 1), (0x07, 2), (0x0B, 3), (0x0D, 3), (0x13, 4), (0x19, 4), (0x1F, 4)]

/-- One pass of the long division by `f` of degree `d`, at bit `i` of the quotient, on quotient and remainder. -/
def divisionPass (f d : Nat) (qr : Nat × Nat) (i : Nat) : Nat × Nat :=
  if qr.2.testBit (d + i) then (qr.1 ^^^ 1 <<< i, qr.2 ^^^ f <<< i) else qr

/-- The quotient of `x^8 + RED` by `f` of degree `d`, computed by long division. -/
def cofactor (red f : Byte) (d : Nat) : Byte :=
  BitVec.ofNat 8 ((List.range (9 - d)).reverse.foldl (divisionPass f.toNat d) (0, 0x100 ^^^ red.toNat)).1

/-- Every byte outside `IRR` has a factor in the list and its cofactor as zero divisors, here at one `MIX_DIR`. -/
theorem exists_zero_divisor_left : ∀ n : Fin 256, BitVec.ofNat 8 n.val ∉ irr →
    ∃ fd ∈ smallFactors, fd.1 ≠ 0x00 ∧ cofactor (BitVec.ofNat 8 n.val) fd.1 fd.2 ≠ 0x00 ∧
      gfMul { red := BitVec.ofNat 8 n.val, mixDir := .left } fd.1
        (cofactor (BitVec.ofNat 8 n.val) fd.1 fd.2) = 0x00 := by
  decide +kernel

theorem exists_zero_divisor {p : Params} (hp : p.red ∉ irr) :
    ∃ f g, f ≠ 0x00 ∧ g ≠ 0x00 ∧ gfMul p f g = 0x00 := by
  have hred : BitVec.ofNat 8 p.red.toNat = p.red := BitVec.ofNat_toNat 8 p.red
  obtain ⟨⟨f, d⟩, -, hf, hg, hfg⟩ := exists_zero_divisor_left ⟨p.red.toNat, p.red.isLt⟩ (by rwa [hred])
  rw [hred] at hg hfg
  exact ⟨f, _, hf, hg, (congrFun (congrFun (gfMul_of_red_eq rfl) f) _).trans hfg⟩

/-! ### The tables of tabulated mode (rule R87) -/

theorem mulTabulated_eq (p : Params) (f g : Byte) : mulTabulated p f g = gfMul p f g := by
  simp [mulTabulated, mulTable, boxAt]

theorem invTabulated_eq (p : Params) (f : Byte) : invTabulated p f = gfInv p f := by
  simp [invTabulated, invTable, boxAt]

/-! ### The generated boxes (rule R105) -/

theorem bitMix_xor (p : Params) (a b : Byte) : bitMix p (a ^^^ b) = bitMix p a ^^^ bitMix p b := by
  simp only [bitMix, mixRot_xor, Nat.reduceLT]
  ac_rfl

/-- An injective map of the bytes is a bijection. -/
theorem isPermutation_of_injective {box : Box} (h : Function.Injective (boxAt box)) : isPermutation box :=
  Finite.injective_iff_bijective.1 h

theorem baseBox_isPermutation {p : Params} (hp : p.red ∈ irr) : isPermutation (baseBox p) :=
  isPermutation_of_injective (baseBox_injective hp)

theorem roundBox_isPermutation {p : Params} (hp : p.red ∈ irr) (mask : Byte) : isPermutation (roundBox p mask) := by
  refine isPermutation_of_injective fun a b hab => baseBox_injective hp ?_
  rwa [boxAt_roundBox, boxAt_roundBox, BitVec.xor_left_inj] at hab

/-- The inverse of a permutation box inverts it from the other side too. -/
theorem boxAt_inverseBox {box : Box} (h : isPermutation box) (j : Byte) : boxAt box (boxAt (inverseBox box) j) = j := by
  obtain ⟨i, rfl⟩ := h.surjective j
  rw [inverseBox_of_injective h.injective]

theorem inverseBox_inverseBox {box : Box} (h : isPermutation box) : inverseBox (inverseBox box) = box := by
  have hinj : Function.Injective (boxAt (inverseBox box)) := Function.LeftInverse.injective (boxAt_inverseBox h)
  refine box_ext fun b => ?_
  calc
    boxAt (inverseBox (inverseBox box)) b
      = boxAt (inverseBox (inverseBox box)) (boxAt (inverseBox box) (boxAt box b)) := by
        rw [inverseBox_of_injective h.injective]
    _ = boxAt box b := inverseBox_of_injective hinj _

/-! ### The boxes `construct` builds (rule R26) -/

theorem construct_sb_isPermutation {p : Params} (hp : p.red ∈ irr) {v : Variant} (key : Block v) (r : Fin v.rounds)
    (j : Fin v.rows) : isPermutation (construct p v key).sb[r][j] := by
  rw [construct_sb]
  exact roundBox_isPermutation hp _

theorem construct_si_sb {p : Params} (hp : p.red ∈ irr) {v : Variant} (key : Block v) (r : Fin v.rounds)
    (j : Fin v.rows) (b : Byte) : boxAt (construct p v key).si[r][j] (boxAt (construct p v key).sb[r][j] b) = b := by
  rw [construct_si]
  exact inverseBox_of_injective (construct_sb_isPermutation hp key r j).injective b

theorem construct_sb_si {p : Params} (hp : p.red ∈ irr) {v : Variant} (key : Block v) (r : Fin v.rounds)
    (j : Fin v.rows) (b : Byte) : boxAt (construct p v key).sb[r][j] (boxAt (construct p v key).si[r][j] b) = b := by
  rw [construct_si]
  exact boxAt_inverseBox (construct_sb_isPermutation hp key r j) b

end Sys2Proof.Machine

open Sys2Proof Sys2Proof.Machine

/-- Settles O25: the laws of the commutative ring of residue classes modulo `P`. -/
theorem fieldOperationsObeyTheRingLaws : Obligations.FieldOperationsObeyTheRingLaws :=
  fun p f g h => ⟨BitVec.xor_comm f g, BitVec.xor_assoc f g h, gfAdd_zero f, gfAdd_self f, rfl, gfMul_comm p f g,
    gfMul_assoc p f g h, gfMul_xor p f g h, gfMul_zero p f, zero_gfMul p f, gfMul_one p f, one_gfMul p f,
    gfMul_two p f, two_gfMul_top p, three_gfMul_five p⟩

/-- Settles O26: every non-zero byte has an inverse, whose inverse is the byte, so `inv` is its own inverse map. -/
theorem irreducibleReductionGivesAField : Obligations.IrreducibleReductionGivesAField :=
  fun _ hp => ⟨fun _ _ => eq_zero_of_gfMul_eq_zero hp, fun _ => gfMul_gfInv hp, gfInv_gfInv hp,
    Function.Involutive.bijective (gfInv_gfInv hp)⟩

/-- Settles O27: outside `IRR` a factor of `x^8 + RED` is a zero divisor, and so a non-zero byte without an inverse. -/
theorem irrIsExactlyTheFieldReductions : Obligations.IrrIsExactlyTheFieldReductions := by
  refine fun p => ⟨fun hp f => existsUnique_gfMul_eq_one hp, fun hinverse => ?_⟩
  by_contra hp
  obtain ⟨f, g, hf, hg, hfg⟩ := exists_zero_divisor hp
  obtain ⟨x, hx, -⟩ := hinverse f hf
  exact gfMul_ne_one_of_zero_divisor hg hfg x hx

/-- Settles O29: each table entry is the direct function at its index. -/
theorem tabulatedModeAgreesWithDirectMode : Obligations.TabulatedModeAgreesWithDirectMode :=
  fun p f g => ⟨mulTabulated_eq p f g, invTabulated_eq p f, boxAt_baseBox p f⟩

/-- Settles O32: the effect stores the inverse to `Y`; the printed inverses multiply to 1. -/
theorem invWritesTheInverseOfA : Obligations.InvWritesTheInverseOfA := by
  refine ⟨rfl, fun _ hs => exec_running rfl hs, fun p => ⟨gfInv_zero p, gfInv_one p⟩, fun _ => gfInv_two,
    fun d => ⟨gfInv_eq_of_gfMul_eq_one ?_, gfInv_eq_of_gfMul_eq_one ?_⟩⟩
  · cases d <;> decide
  · cases d <;> decide

/-- Settles O35: `bit_mix` and the boxes are injective maps of the bytes; the inverse box inverts a permutation from
both sides, so inverting it gives the box back. -/
theorem generatedBoxesArePermutations : Obligations.GeneratedBoxesArePermutations :=
  fun p hp => ⟨bitMix_xor p, Finite.injective_iff_bijective.1 (bitMix_injective p), baseBox_isPermutation hp,
    roundBox_isPermutation hp, fun _ hbox => ⟨inverseBox_of_injective hbox.injective, boxAt_inverseBox hbox,
      inverseBox_inverseBox hbox⟩⟩

/-- Settles O22: the boxes of a valid slot are those `construct` builds, with `RED` in `IRR`. -/
theorem validSlotBoxesAreMutualInverses : Obligations.ValidSlotBoxesAreMutualInverses := by
  intro v c hslot hvalid r j
  rw [slotOk, if_pos hvalid] at hslot
  obtain ⟨key, hkey⟩ := hslot
  rw [hkey]
  exact ⟨construct_sb_isPermutation Config.params_red_mem_irr key r j,
    fun b => ⟨construct_si_sb Config.params_red_mem_irr key r j b, construct_sb_si Config.params_red_mem_irr key r j b⟩⟩

end

section
/-! PROOFS. The round key (rules R121, R122, R124). The idea: entry `i` of a round key is a fold over the first `i + 1`
bytes of the previous one, of which the recurrence is the last pass. -/

namespace Sys2Proof.Machine

/-! ### The recurrence and its closed form (rule R121) -/

/-- The closed form: the round constant XORed with the terms of the bytes up to this one. -/
theorem roundKeyFrom_getElem (p : Params) (carry : Byte) (prev : List Byte) (i : Nat)
    (h : i < (roundKeyFrom p carry prev).length) :
    (roundKeyFrom p carry prev)[i] = (prev.take (i + 1)).foldl (fun acc b => acc ^^^ gfInv p (rotl8 b 4)) carry := by
  induction prev generalizing carry i with
  | nil => cases h
  | cons b rest ih =>
    cases i with
    | zero => simp [roundKeyFrom, BitVec.xor_comm]
    | succ i =>
      rw [List.take_succ_cons, List.foldl_cons, BitVec.xor_comm carry]
      exact ih _ i (Nat.lt_of_succ_lt_succ h)

theorem roundKey_getElem (p : Params) {n : Nat} (prev : Vector Byte n) (r : Nat) {i : Nat} (h : i < n) :
    (roundKey p prev r)[i] =
      (prev.toList.take (i + 1)).foldl (fun acc b => acc ^^^ gfInv p (rotl8 b 4)) (roundConstant p r) := by
  simp only [roundKey, Vector.getElem_mk, List.getElem_toArray]
  exact roundKeyFrom_getElem p _ _ i _

theorem roundKey_getElem_zero (p : Params) {n : Nat} (prev : Vector Byte n) (r : Nat) (h : 0 < n) :
    (roundKey p prev r)[0] = gfInv p (rotl8 prev[0] 4) ^^^ roundConstant p r := by
  rw [roundKey_getElem p prev r h, List.take_succ_eq_append_getElem (by simpa using h)]
  simp [BitVec.xor_comm]

theorem roundKey_getElem_succ (p : Params) {n : Nat} (prev : Vector Byte n) (r : Nat) {i : Nat} (h : i + 1 < n) :
    (roundKey p prev r)[i + 1] = gfInv p (rotl8 prev[i + 1] 4) ^^^ (roundKey p prev r)[i] := by
  rw [roundKey_getElem p prev r h, roundKey_getElem p prev r (Nat.lt_of_succ_lt h),
    List.take_succ_eq_append_getElem (i := i + 1) (by simpa using h), List.foldl_append]
  simp [BitVec.xor_comm]

/-! ### The chain of round keys (rule R122) -/

@[simp] theorem expand_getElem (p : Params) {n : Nat} (key : Vector Byte n) {rounds k : Nat} (h : k < rounds) :
    (expand p key rounds)[k] = chainKey p key k := by
  simp [expand]

/-! ### A shorter key gives the first bytes of the round key (rule R124) -/

theorem roundKeyFrom_take (p : Params) (carry : Byte) (prev : List Byte) (k : Nat) :
    (roundKeyFrom p carry prev).take k = roundKeyFrom p carry (prev.take k) := by
  induction prev generalizing carry k with
  | nil => simp [roundKeyFrom]
  | cons b rest ih =>
    cases k with
    | zero => rfl
    | succ k => simp [roundKeyFrom, ih]

theorem roundKey_toList (p : Params) {n : Nat} (prev : Vector Byte n) (r : Nat) :
    (roundKey p prev r).toList = roundKeyFrom p (roundConstant p r) prev.toList := by
  simp [roundKey]

/-- The first bytes read from an address are those of a shorter read. -/
theorem Memory.readBytes_toList_take (m : Memory) (addr : Nat) {k n : Nat} (h : k ≤ n) :
    (Memory.readBytes m addr n).toList.take k = (Memory.readBytes m addr k).toList := by
  refine List.ext_getElem (by simpa using h) fun i _ _ => ?_
  simp [Memory.readBytes]

theorem bytes_ge (v : Variant) : 32 ≤ v.bytes := by cases v <;> decide

/-- `KS.RK.v` on a running engine (rule R124). -/
theorem exec_ksRk (v : Variant) {s : State} (hs : s.running) : exec (.ksRk v) s = .next (keyStep v s) := by
  cases v <;> exact exec_running rfl hs

end Sys2Proof.Machine

open Sys2Proof Sys2Proof.Machine

/-- Settles O42: the recurrence is one more pass of the fold of the closed form. -/
theorem roundKeyFollowsItsRecurrence : Obligations.RoundKeyFollowsItsRecurrence := by
  refine fun p n prev r => ⟨roundKey_getElem_zero p prev r, fun i => roundKey_getElem_succ p prev r,
    fun i => roundKey_getElem p prev r, fun rounds h => expand_getElem p prev h, fun rounds k h => ?_⟩
  rw [expand_getElem p prev h, expand_getElem p prev (Nat.lt_of_succ_lt h), chainKey]

/-- Settles O44: the effect stores the round key to `DOUT`; the zero key repeats the round constant 0x08. -/
theorem roundKeyIsStoredToDout : Obligations.RoundKeyIsStoredToDout := by
  refine ⟨rfl, rfl, rfl, fun s v hs => ⟨_, exec_ksRk v hs, State.setBuf_storesExactly s .dout _ _⟩, fun p v => ?_,
    fun p m v r => ?_⟩
  · have hconst : roundConstant p 0 = 0x08 := roundConstant_eq_shiftLeft p (by omega)
    rw [roundKey_zeros, hconst]
  · rw [roundKey_toList, roundKey_toList, roundKeyFrom_take, Memory.readBytes_toList_take m _ (bytes_ge v)]

end

section
/-! PROOFS. The column rotations as inverses and as rotations of a list (rule R132). -/

namespace Sys2Proof.Machine

/-! ### The matrix view back and forth (rule R48) -/

@[simp] theorem toMatrix_toBlock {R : Nat} (m : Matrix R) : toMatrix (toBlock m) = m := by
  ext1 r hr
  ext1 c hc
  rw [toMatrix_getElem _ hr hc, toBlock_getElem m hr hc]

@[simp] theorem toBlock_toMatrix {R : Nat} (blk : Vector Byte (8 * R)) : toBlock (toMatrix blk) = blk := by
  ext1 q hq
  obtain ⟨r, c, hr, hc, rfl⟩ := exists_row_column hq
  rw [toBlock_getElem _ hr hc, toMatrix_getElem blk hr hc]

/-! ### The rotations undo each other -/

theorem mod_le_of_lt {R r : Nat} (hr : r < R) (c : Nat) : c % R ≤ R := (Nat.mod_lt c (Nat.zero_lt_of_lt hr)).le

theorem diffuse_getElem {R : Nat} (m : Matrix R) {r c : Nat} (hr : r < R) (hc : c < 8) :
    (diffuse m)[r][c] = (m[(r + R - c % R) % R]'(Nat.mod_lt _ (Nat.zero_lt_of_lt hr)))[c] := by
  simp [diffuse]

theorem diffuseInv_getElem {R : Nat} (m : Matrix R) {r c : Nat} (hr : r < R) (hc : c < 8) :
    (diffuseInv m)[r][c] = (m[(r + c % R) % R]'(Nat.mod_lt _ (Nat.zero_lt_of_lt hr)))[c] := by
  simp [diffuseInv]

@[simp] theorem diffuseInv_diffuse {R : Nat} (m : Matrix R) : diffuseInv (diffuse m) = m := by
  ext1 r hr
  ext1 c hc
  simp only [diffuseInv_getElem _ hr hc, diffuse_getElem, rotateDown_rotateUp hr (mod_le_of_lt hr c)]

@[simp] theorem diffuse_diffuseInv {R : Nat} (m : Matrix R) : diffuse (diffuseInv m) = m := by
  ext1 r hr
  ext1 c hc
  simp only [diffuse_getElem _ hr hc, diffuseInv_getElem, rotateUp_rotateDown hr (mod_le_of_lt hr c)]

/-! ### The three-reversal technique -/

/-- Reversing the two parts of a list and then the whole rotates it. -/
theorem reverse_parts_eq_rotate {α : Type} (col : List α) {k : Nat} (hk : k ≤ col.length) :
    ((col.take k).reverse ++ (col.drop k).reverse).reverse = col.rotate k := by
  rw [List.reverse_append, List.reverse_reverse, List.reverse_reverse, List.rotate_eq_drop_append_take hk]

/-- A column after `diffuse` is the column rotated, as a list, by `R - c mod R` places. -/
theorem diffuse_column {R : Nat} (m : Matrix R) (c : Fin 8) :
    ((diffuse m).map fun row => row[c]).toList = (m.map fun row => row[c]).toList.rotate (R - c.val % R) := by
  refine List.ext_getElem (by simp) fun r hr _ => ?_
  have hlt : r < R := by simpa using hr
  rw [List.getElem_rotate]
  simp [diffuse, Nat.add_sub_assoc (mod_le_of_lt hlt c.val)]

end Sys2Proof.Machine

open Sys2Proof Sys2Proof.Machine

/-- Settles O46: the row numbers of the two rotations cancel modulo `R`, and a rotated column is a rotated list. -/
theorem diffusionAndItsInverseUndoEachOther : Obligations.DiffusionAndItsInverseUndoEachOther := by
  refine ⟨fun R blk => by simp, fun R m c _ => ?_⟩
  rw [diffuse_column, reverse_parts_eq_rotate]
  simp

end

section
/-! PROOFS. The confusion function as an invertible affine map (rules R140 to R144). The idea: every step XORs bytes or
rotates one, so `func_f` carries the XOR of two rows and two keys to the XOR of the results; and each step is undone by
the same XOR or the opposite rotation. -/

namespace Sys2Proof.Machine

/-! ### Rotations of a byte (rule R7) -/

theorem rotl8_xor (a b : Byte) {n : Nat} (hn : n < 8) : rotl8 (a ^^^ b) n = rotl8 a n ^^^ rotl8 b n :=
  mixRot_xor .left a b hn

theorem rotr8_xor (a b : Byte) {n : Nat} (hn : n < 8) : rotr8 (a ^^^ b) n = rotr8 a n ^^^ rotr8 b n :=
  mixRot_xor .right a b hn

theorem rotl8_zero (n : Nat) : rotl8 0#8 n = 0#8 := by simp [rotl8]

theorem rotr8_zero (n : Nat) : rotr8 0#8 n = 0#8 := rotl8_zero _

theorem rotr8_rotl8 (b : Byte) {n : Nat} (hn : n < 8) : rotr8 (rotl8 b n) n = b := by
  refine BitVec.eq_of_getLsbD_eq fun k hk => ?_
  rw [getLsbD_rotr8 _ hn hk, getLsbD_rotl8 _ hn (Nat.mod_lt _ (by decide))]
  congr 1
  omega

theorem rotl8_rotr8 (b : Byte) {n : Nat} (hn : n < 8) : rotl8 (rotr8 b n) n = b := by
  refine BitVec.eq_of_getLsbD_eq fun k hk => ?_
  rw [getLsbD_rotl8 _ hn hk, getLsbD_rotr8 _ hn (Nat.mod_lt _ (by decide))]
  congr 1
  omega

/-! ### Undoing the steps (rule R142 (a)) -/

theorem xor_cancel (a b : Byte) : a ^^^ b ^^^ b = a := by
  rw [BitVec.xor_assoc, BitVec.xor_self, BitVec.xor_zero]

theorem xor_cancel_two (a b c : Byte) : a ^^^ b ^^^ c ^^^ b ^^^ c = a := by
  rw [BitVec.xor_assoc (a ^^^ b), BitVec.xor_comm c, ← BitVec.xor_assoc (a ^^^ b), xor_cancel, xor_cancel]

/-- A row is its eight bytes. -/
theorem row_eta (p : Row) : #v[p[0], p[1], p[2], p[3], p[4], p[5], p[6], p[7]] = p := by
  ext i hi
  interval_cases i <;> rfl

theorem funcFInv_funcF (p k : Row) : funcFInv (funcF p k) k = p := by
  simp [funcF, funcFInv, xor_cancel_two, rotr8_rotl8, rotl8_rotr8, row_eta]

theorem funcF_funcFInv (p k : Row) : funcF (funcFInv p k) k = p := by
  simp [funcF, funcFInv, xor_cancel_two, rotr8_rotl8, rotl8_rotr8, row_eta]

/-! ### Linearity over GF(2) (rule R142 (b)) -/

/-- The XOR of two rows, byte by byte. -/
def rowXor (a b : Row) : Row := Vector.zipWith (· ^^^ ·) a b

@[simp] theorem rowXor_getElem (a b : Row) {i : Nat} (hi : i < 8) : (rowXor a b)[i] = a[i] ^^^ b[i] := by
  simp [rowXor]

@[simp] theorem rowXor_zero (a : Row) : rowXor a (Vector.replicate 8 0x00) = a := by
  ext1 i hi
  simp

@[simp] theorem zero_rowXor (a : Row) : rowXor (Vector.replicate 8 0x00) a = a := by
  ext1 i hi
  simp

/-- A byte made of a row and a key such that XORing rows and keys XORs it. -/
def xorLinear (f : Row → Row → Byte) : Prop :=
  ∀ p p' k k', f (rowXor p p') (rowXor k k') = f p k ^^^ f p' k'

theorem xorLinear_row (i : Fin 8) : xorLinear fun p _ => p[i] := fun p p' _ _ => rowXor_getElem p p' i.isLt

theorem xorLinear_key (i : Fin 8) : xorLinear fun _ k => k[i] := fun _ _ k k' => rowXor_getElem k k' i.isLt

theorem xorLinear.xor {f g : Row → Row → Byte} (hf : xorLinear f) (hg : xorLinear g) :
    xorLinear fun p k => f p k ^^^ g p k := by
  intro p p' k k'
  simp only [hf p p' k k', hg p p' k k']
  ac_rfl

theorem xorLinear.rotl8 {f : Row → Row → Byte} (hf : xorLinear f) (n : Nat) (hn : n < 8 := by decide) :
    xorLinear fun p k => rotl8 (f p k) n := by
  intro p p' k k'
  simp only [hf p p' k k', rotl8_xor _ _ hn]

theorem xorLinear.rotr8 {f : Row → Row → Byte} (hf : xorLinear f) (n : Nat) (hn : n < 8 := by decide) :
    xorLinear fun p k => rotr8 (f p k) n := by
  intro p p' k k'
  simp only [hf p p' k k', rotr8_xor _ _ hn]

/-- `func_f` is linear in row and key together: the bytes of its eight steps are, one after another. -/
theorem funcF_rowXor (p p' k k' : Row) :
    funcF (rowXor p p') (rowXor k k') = rowXor (funcF p k) (funcF p' k') := by
  have row := xorLinear_row
  have key := xorLinear_key
  have p1 := (((row 1).xor (row 0)).xor (row 2)).rotl8 3
  have p6 := (((row 6).xor (row 5)).xor (row 7)).rotr8 2
  have p2 := ((row 2).xor (row 4)).rotl8 2
  have p4 := ((row 4).rotr8 4).xor p1
  have p3 := ((row 3).xor p4).xor (row 7)
  have p5 := (((row 5).xor (row 3)).xor p6).rotl8 1
  have p0 := (row 0).xor p2
  have p7 := (row 7).xor p5
  ext1 i hi
  rw [rowXor_getElem _ _ hi]
  interval_cases i
  · exact p4.xor (key 4) p p' k k'
  · exact p5.xor (key 5) p p' k k'
  · exact p0.xor (key 0) p p' k k'
  · exact p1.xor (key 1) p p' k k'
  · exact p6.xor (key 6) p p' k k'
  · exact p7.xor (key 7) p p' k k'
  · exact p2.xor (key 2) p p' k k'
  · exact p3.xor (key 3) p p' k k'

/-- The zero row leaves only the key, in the order of step 8. -/
theorem funcF_zero (k : Row) :
    funcF (Vector.replicate 8 0x00) k = #v[k[4], k[5], k[0], k[1], k[6], k[7], k[2], k[3]] := by
  simp [funcF, rotl8_zero, rotr8_zero]

theorem funcF_zero_zero : funcF (Vector.replicate 8 0x00) (Vector.replicate 8 0x00) = Vector.replicate 8 0x00 :=
  (funcF_zero _).trans rfl

end Sys2Proof.Machine

open Sys2Proof Sys2Proof.Machine

/-- Settles O49: the steps undo one another, and linearity at the zero row and the zero key splits off the key. -/
theorem funcFIsAnInvertibleAffineMap : Obligations.FuncFIsAnInvertibleAffineMap := by
  refine ⟨fun p k => ⟨funcFInv_funcF p k, funcF_funcFInv p k⟩, fun p k => ?_, fun p p' => ?_, funcF_zero,
    funcF_zero_zero⟩
  · have hsplit := funcF_rowXor p (Vector.replicate 8 0x00) (Vector.replicate 8 0x00) k
    rwa [rowXor_zero, zero_rowXor] at hsplit
  · have hsplit := funcF_rowXor p p' (Vector.replicate 8 0x00) (Vector.replicate 8 0x00)
    rwa [rowXor_zero] at hsplit

/-- Settles O50: the effects store their row to `ROWO`; the zero row of `func_f_inv` is that of `func_f` undone. -/
theorem confusedRowIsStoredToRowo : Obligations.ConfusedRowIsStoredToRowo := by
  refine ⟨rfl, rfl, fun s hs => ⟨⟨_, exec_running rfl hs, State.setBuf_storesExactly s .rowo 8 _⟩,
    ⟨_, exec_running rfl hs, State.setBuf_storesExactly s .rowo 8 _⟩⟩, funcF_zero, funcF_zero_zero, ?_,
    by decide, by decide⟩
  have hundo := funcFInv_funcF (Vector.replicate 8 0x00) (Vector.replicate 8 0x00)
  rwa [funcF_zero_zero] at hundo

end

section
/-! PROOFS. The cipher undoes itself, and the cipher commands (rules R152 to R159). The idea: each layer of a round is
undone by its counterpart, so a backward round undoes the forward round with the same key and boxes, and the backward
fold over the rounds undoes the forward one from the inside out. -/

namespace Sys2Proof.Machine

/-! ### Layers and rounds undo each other (rule R152) -/

theorem substitute_substitute {R : Nat} {boxes inverses : Vector Box R}
    (h : ∀ (j : Fin R) (b : Byte), boxAt inverses[j] (boxAt boxes[j] b) = b) (m : Matrix R) :
    substitute inverses (substitute boxes m) = m := by
  ext1 r hr
  ext1 c hc
  simpa [substitute] using h ⟨r, hr⟩ m[r][c]

theorem confuseInv_confuse {R : Nat} (rk m : Matrix R) : confuseInv rk (confuse rk m) = m := by
  ext1 r hr
  simp [confuse, confuseInv, funcFInv_funcF]

theorem confuse_confuseInv {R : Nat} (rk m : Matrix R) : confuse rk (confuseInv rk m) = m := by
  ext1 r hr
  simp [confuse, confuseInv, funcF_funcFInv]

theorem roundBwd_roundFwd {R : Nat} (rk : Vector Byte (8 * R)) {boxes inverses : Vector Box R}
    (h : ∀ (j : Fin R) (b : Byte), boxAt inverses[j] (boxAt boxes[j] b) = b) (m : Matrix R) :
    roundBwd rk inverses (roundFwd rk boxes m) = m := by
  rw [roundBwd, roundFwd, confuseInv_confuse, substitute_substitute h, diffuseInv_diffuse]

theorem roundFwd_roundBwd {R : Nat} (rk : Vector Byte (8 * R)) {boxes inverses : Vector Box R}
    (h : ∀ (j : Fin R) (b : Byte), boxAt boxes[j] (boxAt inverses[j] b) = b) (m : Matrix R) :
    roundFwd rk boxes (roundBwd rk inverses m) = m := by
  rw [roundFwd, roundBwd, diffuse_diffuseInv, substitute_substitute h, confuse_confuseInv]

/-! ### Folds undo each other (rules R153, R154) -/

theorem foldr_foldl_cancel {ι α : Type} {f g : ι → α → α} (h : ∀ i a, g i (f i a) = a) (is : List ι) (a : α) :
    is.foldr g (is.foldl (fun a i => f i a) a) = a := by
  induction is generalizing a with
  | nil => rfl
  | cons i is ih => rw [List.foldl_cons, List.foldr_cons, ih, h]

theorem foldl_foldr_cancel {ι α : Type} {f g : ι → α → α} (h : ∀ i a, f i (g i a) = a) (is : List ι) (a : α) :
    is.foldl (fun a i => f i a) (is.foldr g a) = a := by
  induction is with
  | nil => rfl
  | cons i is ih => rw [List.foldr_cons, List.foldl_cons, h, ih]

theorem decrypt_encrypt {p : Params} (hp : p.red ∈ irr) {v : Variant} (key blk : Block v) :
    decrypt (construct p v key) (encrypt (construct p v key) blk) = blk := by
  have hround (r : Fin v.rounds) (m : Matrix v.rows) :=
    roundBwd_roundFwd (construct p v key).rk[r] (fun j b => construct_si_sb hp key r j b) m
  rw [decrypt, encrypt, toMatrix_toBlock, foldr_foldl_cancel hround, toBlock_toMatrix]

theorem encrypt_decrypt {p : Params} (hp : p.red ∈ irr) {v : Variant} (key blk : Block v) :
    encrypt (construct p v key) (decrypt (construct p v key) blk) = blk := by
  have hround (r : Fin v.rounds) (m : Matrix v.rows) :=
    roundFwd_roundBwd (construct p v key).rk[r] (fun j b => construct_sb_si hp key r j b) m
  rw [encrypt, decrypt, toMatrix_toBlock, foldl_foldr_cancel hround, toBlock_toMatrix]

/-! ### The cipher commands on a valid slot (rules R157, R158) -/

theorem exec_ciEnc {v : Variant} {s : State} (hs : s.running) (hv : (s.ctx v).valid = true) :
    exec (.ciEnc v) s = .next (encryptStep v s) := by
  rw [exec_eq_commandOnSlot (slotNeeded_ciEnc v), commandOnSlot_valid hs hv]
  cases v <;> rfl

theorem exec_ciDec {v : Variant} {s : State} (hs : s.running) (hv : (s.ctx v).valid = true) :
    exec (.ciDec v) s = .next (decryptStep v s) := by
  rw [exec_eq_commandOnSlot (slotNeeded_ciDec v), commandOnSlot_valid hs hv]
  cases v <;> rfl

/-- Either cipher command stores a function of its slot and of the block in `DIN`. -/
theorem exists_cipher {i : Instr} {v : Variant} (hi : i = .ciEnc v ∨ i = .ciDec v) :
    ∃ cipher : Inst v → Block v → Block v, ∀ s : State, s.running → (s.ctx v).valid = true →
      exec i s = .next (s.setBlockOut v (cipher (s.ctx v).inst (s.blockIn v))) := by
  rcases hi with rfl | rfl
  · exact ⟨encrypt, fun _ => exec_ciEnc⟩
  · exact ⟨decrypt, fun _ => exec_ciDec⟩

@[simp] theorem State.setBlockOut_ctx (s : State) (v : Variant) (bytes : Block v) (w : Variant) :
    (s.setBlockOut v bytes).ctx w = s.ctx w := State.setBuf_ctx s .dout _ bytes w

/-- `DIN` lies below `DOUT`, so storing a result leaves it alone. -/
@[simp] theorem State.setBlockOut_blockIn (s : State) (v : Variant) (bytes : Block v) (w : Variant) :
    (s.setBlockOut v bytes).blockIn w = s.blockIn w := by
  obtain ⟨-, -, houtside⟩ := State.setBuf_storesExactly s .dout v.bytes bytes
  ext1 i hi
  have hdin : Buf.din.base + i < Buf.dout.base := Nat.add_lt_add_left (hi.trans_le (bytes_le_size w)) 0x080
  rw [State.blockIn, State.blockIn, State.source_getElem, State.source_getElem]
  exact houtside _ (.inl hdin)

/-- What is read back from `DOUT` after a result was stored there. -/
theorem State.setBlockOut_readBytes (s : State) (v : Variant) (bytes : Block v) :
    Memory.readBytes (s.setBlockOut v bytes).mem 0x0C0 v.bytes = bytes := State.setBuf_source s .dout v.bytes bytes

/-- Storing the same bytes again changes no byte of memory. -/
theorem storesExactly.read_again {s t u : State} {which : Buf} {n : Nat} {bytes : Vector Byte n}
    (ht : storesExactly s t which n bytes) (hu : storesExactly t u which n bytes) (addr : Nat) :
    Memory.read u.mem addr = Memory.read t.mem addr := by
  obtain ⟨-, hinside, -⟩ := ht
  obtain ⟨-, hinside', houtside⟩ := hu
  by_cases hin : which.base ≤ addr ∧ addr < which.base + n
  · obtain ⟨i, rfl⟩ := Nat.exists_eq_add_of_le hin.left
    have hi : i < n := by omega
    rw [hinside i hi, hinside' i hi]
  · exact houtside addr (by omega)

/-! ### `CI.FREE.v` (rule R159) -/

theorem exec_ciFree (v : Variant) {s : State} (hs : s.running) : exec (.ciFree v) s = .next (freeStep v s) := by
  cases v <;> exact exec_running rfl hs

/-- Replacing a slot by itself changes nothing. -/
theorem State.setCtx_self (s : State) (v : Variant) : s.setCtx v (s.ctx v) = s := by cases v <;> rfl

/-- A slot that is invalid and in order is the reset slot. -/
theorem eq_reset_of_slotOk {v : Variant} {c : Ctx v} (hvalid : c.valid = false) (hslot : slotOk c) :
    c = Ctx.reset v := by
  obtain ⟨valid, inst⟩ := c
  subst hvalid
  obtain rfl : inst = Inst.zero v := hslot
  rfl

theorem freeStep_of_reset {v : Variant} {s : State} (h : s.ctx v = Ctx.reset v) : freeStep v s = s :=
  (congrArg (s.setCtx v) h.symm).trans (State.setCtx_self s v)

end Sys2Proof.Machine

open Sys2Proof Sys2Proof.Machine

/-- Settles O53: the rounds undo one another from the innermost out. -/
theorem decryptUndoesEncrypt : Obligations.DecryptUndoesEncrypt :=
  fun _ _ key blk hp => ⟨decrypt_encrypt hp key blk, encrypt_decrypt hp key blk⟩

/-- Settles O56: the effects store their block to `DOUT`. -/
theorem cipherBlockIsStoredToDout : Obligations.CipherBlockIsStoredToDout :=
  fun s _ hs hv => ⟨⟨_, exec_ciEnc hs hv, State.setBuf_storesExactly s .dout _ _⟩,
    ⟨_, exec_ciDec hs hv, State.setBuf_storesExactly s .dout _ _⟩⟩

/-- Settles O57: the command stores a function of slot and block, and storing to `DOUT` changes neither of them. -/
theorem cipherResultDependsOnSlotAndBlockAlone : Obligations.CipherResultDependsOnSlotAndBlockAlone := by
  intro i s u v hi hs hu hv hctx hblock
  obtain ⟨cipher, hexec⟩ := exists_cipher hi
  have hblock' : u.blockIn v = s.blockIn v := hblock
  refine ⟨_, _, hexec s hs hv, hexec u hu (hctx ▸ hv), ?_, _, hexec _ hs (by rwa [State.setBlockOut_ctx]), ?_⟩
  · rw [State.setBlockOut_readBytes, State.setBlockOut_readBytes, hctx, hblock']
  · rw [State.setBlockOut_ctx, State.setBlockOut_blockIn]
    exact (State.setBuf_storesExactly s .dout _ _).read_again (State.setBuf_storesExactly _ .dout _ _)

/-- Settles O58: the effect puts the reset slot in place, on which the cipher commands fault. -/
theorem freeClearsItsSlot : Obligations.FreeClearsItsSlot := by
  refine ⟨rfl, rfl, rfl, fun s v hs => ?_, _, _, exec_ciNew .v256 rfl, exec_ciFree .v256 rfl, rfl⟩
  have hinvalid : ((freeStep v s).ctx v).valid = false := by rw [freeStep_ctx]; rfl
  have hrunning : (freeStep v s).running := (freeStep_err v s).trans hs
  refine ⟨freeStep v s, exec_ciFree v hs, hinvalid, by rw [freeStep_ctx]; rfl, fun w hw => freeStep_ctx_other hw s,
    State.setCtx_frame s v _, by rw [status_getLsbD_validFlagBit, hinvalid],
    fun hvalid hslot => freeStep_of_reset (eq_reset_of_slotOk hvalid hslot),
    ⟨_, exec_invalid (slotNeeded_ciEnc v) hrunning hinvalid, rfl, rfl⟩,
    ⟨_, exec_invalid (slotNeeded_ciDec v) hrunning hinvalid, rfl, rfl⟩⟩

end

section
/-! PROOFS. Host programs (rules R67, R68, R155 (a), R160). The idea: a buffer's elements are host cells, so `FILL` is
consecutive memory writes, and an element `COPY` has moved is not touched by the elements after it; the program of rule
R160 is then the four effects in a row. -/

namespace Sys2Proof.Machine

/-! ### The window addresses of buffer elements (rule R41) -/

theorem bufAddr_toNat {which : Buf} {i : Nat} (hi : i < which.size) : (bufAddr which i).toNat = which.base + i := by
  have hend : which.base + which.size ≤ 2 ^ 10 := by cases which <;> decide
  rw [bufAddr, BitVec.toNat_ofNat, Nat.mod_eq_of_lt (by omega)]

theorem hostRead_bufAddr {which : Buf} {i : Nat} (hi : i < which.size) (s : State) :
    hostRead s (bufAddr which i) = Memory.read s.mem (which.base + i) := by
  have haddr := bufAddr_toNat hi
  rw [hostRead_buf (which := which) (by omega) (by omega), haddr]

theorem hostWrite_bufAddr {which : Buf} (hrw : which.access = .readWrite) {i : Nat} (hi : i < which.size) (x : Byte)
    (s : State) :
    hostWrite (bufAddr which i) x s = .next { s with mem := Memory.write (which.base + i) x s.mem } := by
  have haddr := bufAddr_toNat hi
  rw [hostWrite_buf hrw (by omega) (by omega), haddr]

/-- No cell belongs to two buffers: the address map names one target for it. -/
theorem buf_cells_ne {which other : Buf} (h : which ≠ other) {i j : Nat} (hi : i < which.size) (hj : j < other.size) :
    which.base + i ≠ other.base + j := by
  intro heq
  have hwhich := mappedAt_buf (which := which) (addr := which.base + i) (by omega) (by omega)
  have hother := mappedAt_buf (which := other) (addr := which.base + i) (by omega) (by omega)
  rw [hwhich] at hother
  exact h (Target.buf.inj (congrArg Prod.fst hother))

/-- The buffers of the statements are those the host may write. -/
theorem access_of_mem {which : Buf} (h : which ∈ [Buf.row, .sk, .key, .din, .boxa]) : which.access = .readWrite := by
  cases which with
  | row | sk | key | din | boxa => rfl
  | rowo | dout | boxb => simp at h

/-! ### `FILL` and `EXPECT` (rule R68) -/

theorem transactAll_fillFrom {which : Buf} (hrw : which.access = .readWrite) (bytes : List Byte) (i : Nat)
    (hfits : i + bytes.length ≤ which.size) (s : State) :
    transactAll (fillFrom which i bytes) s =
      .next { s with mem := Memory.writeBytes (which.base + i) bytes s.mem } := by
  induction bytes generalizing i s with
  | nil => rfl
  | cons x bytes ih =>
    rw [List.length_cons] at hfits
    rw [fillFrom, transactAll, transact, hostWrite_bufAddr hrw (by omega), andThen, ih (i + 1) (by omega)]
    rfl

theorem expect_holds {which : Buf} {bytes : List Byte} (hfits : bytes.length ≤ which.size) {t : State}
    (h : ∀ i (hi : i < bytes.length), Memory.read t.mem (which.base + i) = bytes[i]) :
    (Stmt.expect which bytes).holds t = true := by
  rw [Stmt.holds, beq_iff_eq]
  refine List.ext_getElem (by simp) fun i _ hi => ?_
  rw [List.getElem_map, List.getElem_range, hostRead_bufAddr (by omega), h i hi]

/-! ### `COPY` (rule R68) -/

/-- `t` is `s` after elements `i` to `i + n − 1` of `src` were copied to `dst`, the byte last read being the host's. -/
def copied (dst src : Buf) (i n : Nat) (s t : State) : Prop :=
  t = { s with mem := t.mem, host := { s.host with readData := t.host.readData } } ∧
  (∀ j, i ≤ j → j < i + n → Memory.read t.mem (dst.base + j) = Memory.read s.mem (src.base + j)) ∧
  ∀ addr, (addr < dst.base + i ∨ dst.base + (i + n) ≤ addr) → Memory.read t.mem addr = Memory.read s.mem addr

/-- The state after one element of `COPY`. -/
def State.afterCopyElement (dst src : Buf) (i : Nat) (s : State) : State :=
  { s with mem := Memory.write (dst.base + i) (Memory.read s.mem (src.base + i)) s.mem,
           host := { s.host with readData := some (Memory.read s.mem (src.base + i)) } }

theorem copyElement_eq {dst src : Buf} (hrw : dst.access = .readWrite) {i : Nat} (hdst : i < dst.size)
    (hsrc : i < src.size) (s : State) : copyElement dst src i s = .next (s.afterCopyElement dst src i) := by
  rw [copyElement, transact, andThen, hostRead_bufAddr hsrc]
  exact hostWrite_bufAddr hrw hdst _ _

/-- Copying one more element first: the later elements neither undo it nor read the cell it wrote. -/
theorem copied_succ {dst src : Buf} (hne : dst ≠ src) {i n : Nat} (hdst : i + (n + 1) ≤ dst.size)
    (hsrc : i + (n + 1) ≤ src.size) {s t : State} (h : copied dst src (i + 1) n (s.afterCopyElement dst src i) t) :
    copied dst src i (n + 1) s t := by
  obtain ⟨hframe, hinside, houtside⟩ := h
  refine ⟨hframe, fun j hlo hhi => ?_, fun addr haddr => ?_⟩
  · rcases hlo.eq_or_lt with rfl | hlt
    · rw [houtside _ (.inl (by omega))]
      exact Memory.read_write_same _ _ _
    · rw [hinside j hlt (by omega)]
      exact Memory.read_write_other _ _ (buf_cells_ne hne.symm (by omega) (by omega))
  · rw [houtside addr (by omega)]
    exact Memory.read_write_other _ _ (by omega)

theorem exists_copyFrom {dst src : Buf} (hrw : dst.access = .readWrite) (hne : dst ≠ src) (n i : Nat)
    (hdst : i + n ≤ dst.size) (hsrc : i + n ≤ src.size) (s : State) :
    ∃ t, copyFrom dst src i n s = .next t ∧ copied dst src i n s t := by
  induction n generalizing i s with
  | zero => exact ⟨s, rfl, rfl, fun j hlo hhi => by omega, fun _ _ => rfl⟩
  | succ n ih =>
    obtain ⟨t, ht, hcopied⟩ := ih (i + 1) (by omega) (by omega) (s.afterCopyElement dst src i)
    refine ⟨t, ?_, copied_succ hne hdst hsrc hcopied⟩
    rw [copyFrom, copyElement_eq hrw (by omega) (by omega), andThen, ht]

/-! ### Commands in a program (rule R67) -/

theorem andThen_next (o : Host.Outcome State Fault Refusal) : andThen o .next = o := by cases o <;> rfl

/-- `CMD` runs its command. -/
theorem Stmt.cmd_run_eq (i : Instr) (s : State) : (Stmt.cmd i).run s = exec i s :=
  (andThen_next _).trans (execByte_of_decode (decode_encode i) s)

/-- A program whose first statement answers a next state goes on from there. -/
theorem runProgram_cons {stmt : Stmt} {s t : State} (h : stmt.run s = .next t) (rest : List Stmt) :
    runProgram (stmt :: rest) s = runProgram rest t := by
  rw [runProgram, h, andThen]

@[simp] theorem constructStep_blockIn (v : Variant) (s : State) : (constructStep v s).blockIn v = s.blockIn v := by
  rw [State.blockIn, State.source, constructStep_mem]
  rfl

/-- `COPY` leaves the flags and the slots alone. -/
theorem copied.frame {dst src : Buf} {i n : Nat} {s t : State} (h : copied dst src i n s t) :
    t.err = s.err ∧ ∀ v, t.ctx v = s.ctx v := by
  obtain ⟨hframe, -, -⟩ := h
  rw [hframe]
  exact ⟨rfl, fun v => by cases v <;> rfl⟩

/-- After `COPY DIN, DOUT, Bv` the block in `DIN` is the result that was in `DOUT`. -/
theorem copied.blockIn {v : Variant} {s t : State} (h : copied .din .dout 0 v.bytes s t) :
    t.blockIn v = Memory.readBytes s.mem 0x0C0 v.bytes := by
  obtain ⟨-, hinside, -⟩ := h
  ext1 i hi
  rw [State.blockIn, State.source_getElem, Memory.readBytes_getElem]
  exact hinside i (Nat.zero_le i) (by omega)

end Sys2Proof.Machine

open Sys2Proof Sys2Proof.Machine

/-- Settles O59: `FILL` writes consecutive cells, which `EXPECT` reads back; `COPY` by induction on its elements. -/
theorem fillAndCopyMoveTheBytesTheyName : Obligations.FillAndCopyMoveTheBytesTheyName := by
  refine ⟨fun s which bytes hwhich hfits => ?_, fun s dst src n hdst hne hn hn' => ?_⟩
  · exact ⟨_, transactAll_fillFrom (access_of_mem hwhich) bytes 0 (by omega) s, rfl,
      expect_holds hfits fun i => Memory.read_writeBytes_inside bytes which.base s.mem i,
      Memory.read_writeBytes_outside bytes which.base s.mem⟩
  · obtain ⟨t, ht, hframe, hinside, houtside⟩ :=
      exists_copyFrom (access_of_mem hdst) hne n 0 (by omega) (by omega) s
    exact ⟨t, ht, hframe, fun i hi => hinside i (Nat.zero_le i) (by omega), fun addr haddr => houtside addr (by omega)⟩

/-- Settles O54: the copied result is the block that `CI.DEC.v` reads, and its slot is still the one that
encrypted it. -/
theorem constructEncryptDecryptRestoresTheBlock : Obligations.ConstructEncryptDecryptRestoresTheBlock := by
  intro s v hs
  have hnew : (constructStep v s).running := (constructStep_err v s).trans hs
  have hvalid : ((constructStep v s).ctx v).valid = true := by rw [constructStep_ctx]
  have hsize : 0 + v.bytes ≤ 64 := (Nat.zero_add v.bytes).symm ▸ bytes_le_size v
  obtain ⟨t, ht, hcopied⟩ := exists_copyFrom (dst := .din) (src := .dout) rfl (by decide) v.bytes 0 hsize hsize
    (encryptStep v (constructStep v s))
  obtain ⟨herr, hctx⟩ := hcopied.frame
  have hslot : t.ctx v = (constructStep v s).ctx v := (hctx v).trans (State.setBlockOut_ctx _ v _ v)
  have hrunning : t.running := herr.trans hnew
  refine ⟨decryptStep v t, ?_, hrunning, ?_⟩
  · rw [runProgram_cons ((Stmt.cmd_run_eq _ _).trans (exec_ciNew v hs)),
      runProgram_cons ((Stmt.cmd_run_eq _ _).trans (exec_ciEnc hnew hvalid)),
      runProgram_cons (stmt := .copy .din .dout v.bytes) ht,
      runProgram_cons ((Stmt.cmd_run_eq _ _).trans (exec_ciDec hrunning (hslot ▸ hvalid))), runProgram]
  · rw [decryptStep, State.setBlockOut_readBytes, hslot, hcopied.blockIn, encryptStep, State.setBlockOut_readBytes,
      constructStep_ctx, constructStep_blockIn]
    exact decrypt_encrypt Config.params_red_mem_irr _ _

end
